-- ==== Sys2Proof/Word.lean ====
section
/-! DEFINITION. The word and byte types of the block (00_scope.md rules R6, R7) and the byte string of n zero bytes. -/
namespace Sys2Proof

/-- A byte of a byte string or of DMEM. -/
abbrev Byte := BitVec 8

/-- A u32: a host register, a command word or a state word (R6: state word width 32 bits). -/
abbrev Word := BitVec 32

/-- `zeros(n)` of R7. -/
def zeros (n : Nat) : List Byte := List.replicate n 0

end Sys2Proof
end

