-- ==== Sys2Proof/Syntax.lean ====
section
/-! DEFINITION. The twelve commands of 30_encoding.md rule R84. Operands are in A0..A5 (R85), so a command carries its slot index and nothing else (R82); DERIVE carries nothing. -/
namespace Sys2Proof

inductive Instr where
  | scInit    (slot : BitVec 8)
  | scXor     (slot : BitVec 8)
  | scDestroy (slot : BitVec 8)
  | derive
  | aeInit    (slot : BitVec 8)
  | aeAad     (slot : BitVec 8)
  | aeEncrypt (slot : BitVec 8)
  | aeDecrypt (slot : BitVec 8)
  | aeAuth    (slot : BitVec 8)
  | aeFinal   (slot : BitVec 8)
  | aeVerify  (slot : BitVec 8)
  | aeDestroy (slot : BitVec 8)
  deriving DecidableEq, Repr

end Sys2Proof
end

