-- ==== Sys2Proof/WellFormed.lean ====
section
/-! DEFINITION. Well-formed commands for a block with nSc cipher slots and nAe AEAD slots: 30_encoding.md rule R82's bounds on SLOT. -/
namespace Sys2Proof

/-- R82: SLOT names SC[SLOT] for opcodes 0x01 to 0x03 and must be < N_SC, names AE[SLOT] for opcodes 0x10 to 0x17
and must be < N_AE. -/
def wellFormed (nSc nAe : Nat) : Instr → Bool
  | .scInit s    => decide (s.toNat < nSc)
  | .scXor s     => decide (s.toNat < nSc)
  | .scDestroy s => decide (s.toNat < nSc)
  | .derive      => true
  | .aeInit a    => decide (a.toNat < nAe)
  | .aeAad a     => decide (a.toNat < nAe)
  | .aeEncrypt a => decide (a.toNat < nAe)
  | .aeDecrypt a => decide (a.toNat < nAe)
  | .aeAuth a    => decide (a.toNat < nAe)
  | .aeFinal a   => decide (a.toNat < nAe)
  | .aeVerify a  => decide (a.toNat < nAe)
  | .aeDestroy a => decide (a.toNat < nAe)

end Sys2Proof
end

