-- ==== Sys2Proof/Decode.lean ====
section
/-! DEFINITION. The command word (30_encoding.md rule R80), DECODE (R91), the encoder (R84, R92) and the assembler text of a command (R92). -/
namespace Sys2Proof

/-- What DECODE returns (R91): a reserved encoding, a slot the block does not have, or a command. -/
inductive Decoded where
  | illegal
  | badSlot
  | cmd (i : Instr)
  deriving DecidableEq, Repr

/-- R80: bits [7:0]. -/
def opcOf (w : Word) : BitVec 8 := w.extractLsb' 0 8

/-- R80: bits [15:8]. -/
def slotOf (w : Word) : BitVec 8 := w.extractLsb' 8 8

/-- R80: bits [31:16]. -/
def rsvOf (w : Word) : BitVec 16 := w.extractLsb' 16 16

/-- R84: the command of an opcode that takes a slot, `none` for every other opcode. -/
def slotCommand (opc : BitVec 8) (slot : BitVec 8) : Option Instr :=
  if opc = 0x01 then some (.scInit slot)
  else if opc = 0x02 then some (.scXor slot)
  else if opc = 0x03 then some (.scDestroy slot)
  else if opc = 0x10 then some (.aeInit slot)
  else if opc = 0x11 then some (.aeAad slot)
  else if opc = 0x12 then some (.aeEncrypt slot)
  else if opc = 0x13 then some (.aeDecrypt slot)
  else if opc = 0x14 then some (.aeAuth slot)
  else if opc = 0x15 then some (.aeFinal slot)
  else if opc = 0x16 then some (.aeVerify slot)
  else if opc = 0x17 then some (.aeDestroy slot)
  else none

/-- DECODE of R91, for a block with nSc cipher slots and nAe AEAD slots. Total on every 32-bit word. -/
def decode (nSc nAe : Nat) (w : Word) : Decoded :=
  if rsvOf w ≠ 0 then .illegal
  else if opcOf w = 0x04 then
    if slotOf w ≠ 0 then .illegal else .cmd .derive
  else match slotCommand (opcOf w) (slotOf w) with
    | none   => .illegal
    | some i => if wellFormed nSc nAe i then .cmd i else .badSlot

/-- R84: a command's opcode. -/
def opcode : Instr → BitVec 8
  | .scInit _    => 0x01
  | .scXor _     => 0x02
  | .scDestroy _ => 0x03
  | .derive      => 0x04
  | .aeInit _    => 0x10
  | .aeAad _     => 0x11
  | .aeEncrypt _ => 0x12
  | .aeDecrypt _ => 0x13
  | .aeAuth _    => 0x14
  | .aeFinal _   => 0x15
  | .aeVerify _  => 0x16
  | .aeDestroy _ => 0x17

/-- R82: a command's SLOT field; 0 for DERIVE. -/
def slotField : Instr → BitVec 8
  | .scInit s    => s
  | .scXor s     => s
  | .scDestroy s => s
  | .derive      => 0
  | .aeInit a    => a
  | .aeAad a     => a
  | .aeEncrypt a => a
  | .aeDecrypt a => a
  | .aeAuth a    => a
  | .aeFinal a   => a
  | .aeVerify a  => a
  | .aeDestroy a => a

/-- R92: the assembler emits zext_32(slot) << 8 OR OPC. -/
def encode (i : Instr) : Word :=
  ((slotField i).zeroExtend 32 <<< 8) ||| (opcode i).zeroExtend 32

/-- R84: a command's mnemonic. -/
def mnemonic : Instr → String
  | .scInit _    => "SC_INIT"
  | .scXor _     => "SC_XOR"
  | .scDestroy _ => "SC_DESTROY"
  | .derive      => "DERIVE"
  | .aeInit _    => "AE_INIT"
  | .aeAad _     => "AE_AAD"
  | .aeEncrypt _ => "AE_ENCRYPT"
  | .aeDecrypt _ => "AE_DECRYPT"
  | .aeAuth _    => "AE_AUTH"
  | .aeFinal _   => "AE_FINAL"
  | .aeVerify _  => "AE_VERIFY"
  | .aeDestroy _ => "AE_DESTROY"

/-- R92: the mnemonic followed by the slot number in decimal; DERIVE takes no slot. -/
def assembly (i : Instr) : String :=
  match i with
  | .derive => mnemonic i
  | _       => mnemonic i ++ " " ++ toString (slotField i).toNat

/-- The command the decoder reads from a word given as the opcode table numbers its bits (one 32-bit word; bits above
`nbits` are 0). It decodes for the largest block R6 allows, 256 slots of each kind, so that every SLOT value is read.
`none` where DECODE refuses. Log entry 16. -/
def decodeTableWord (nbits w : Nat) : Option Instr :=
  match decode 256 256 (BitVec.ofNat 32 (w % 2 ^ nbits)) with
  | .cmd i => some i
  | _      => none

end Sys2Proof
end

