-- ==== Sys2Proof/Machine/Bytes.lean ====
section
/-! DEFINITION. The little-endian codec primitives (00_scope.md rule R8), the left rotate (R7) and fixed-length byte strings. -/
namespace Sys2Proof.Machine

/-- `rotl32(v, n)` of R7, for 0 < n < 32. -/
def rotl32 (v : Word) (n : Nat) : Word := (v <<< n) ||| (v >>> (32 - n))

/-- Byte i of a byte string. Every use is at an index below the string's length. -/
def byteAt (s : List Byte) (i : Nat) : Byte := s.getD i 0

/-- `LE32(s, i)` of R8. -/
def le32 (s : List Byte) (i : Nat) : Word :=
  BitVec.ofNat 32 ((byteAt s i).toNat + 2 ^ 8 * (byteAt s (i + 1)).toNat + 2 ^ 16 * (byteAt s (i + 2)).toNat
    + 2 ^ 24 * (byteAt s (i + 3)).toNat)

/-- `BYTES32(w)` of R8. -/
def bytes32 (w : Word) : List Byte :=
  [w.extractLsb' 0 8, w.extractLsb' 8 8, w.extractLsb' 16 8, w.extractLsb' 24 8]

/-- `BYTES64(n)` of R8, for 0 <= n < 2^53. -/
def bytes64 (n : Nat) : List Byte :=
  bytes32 (BitVec.ofNat 32 (n % 2 ^ 32)) ++ bytes32 (BitVec.ofNat 32 (n / 2 ^ 32))

/-- `SER(w0..wk)` of R8. -/
def ser (ws : List Word) : List Byte := ws.flatMap bytes32

/-- A list as a vector of n entries; every use is on a list of exactly n entries. -/
def toVec {α : Type} (n : Nat) (fill : α) (l : List α) : Vector α n :=
  ⟨⟨(l ++ List.replicate n fill).take n⟩, by simp⟩

/-- LE(x) of R239: a byte string as a little-endian integer. -/
def leNat (s : List Byte) : Nat := s.foldr (fun b n => b.toNat + 256 * n) 0

/-- The n low little-endian bytes of an integer (R239). -/
def leBytes : Nat → Nat → List Byte
  | 0, _     => []
  | n + 1, v => BitVec.ofNat 8 v :: leBytes n (v / 256)

end Sys2Proof.Machine
end

