-- ==== Sys2Proof/Config.lean ====
section
/-! DEFINITION. What an implementation fixes (00_scope.md rule R6) and the model's free values (93_implementation_defined.md nos. 1 to 3). An opaque constant here has no body: no proof can see its value. -/
namespace Sys2Proof

/-- `MAC_FN` of R6 and 60_exceptions.md R236: the MAC device a block is built with. `poly1305` is the conforming
default (R239); `other n` is the n-th of any other function, a free value. Log entry 4. -/
inductive MacFn where
  | poly1305
  | other (n : Nat)
  deriving DecidableEq, Repr

/-- The parameters of R6 that are not the length of a slot file (N_SC and N_AE are the lengths of `State.sc` and
`State.ae`). No step changes them. Log entry 3. -/
structure Params where
  dmemBytes : Nat
  mac       : MacFn
  deriving DecidableEq, Repr

/-- R6's default of N_SC. -/
def Config.nScDefault : Nat := 1

/-- R6's default of N_AE. -/
def Config.nAeDefault : Nat := 1

/-- R6's default of DMEM_BYTES. -/
def Config.dmemBytesDefault : Nat := 65536

/-- FREE VALUE (20_memory.md R74; 93 no. 1): what DMEM byte `a` holds after power-on until it is written.
Log entry 1. -/
opaque Config.dmemDraw : Nat → Byte

/-- FREE VALUE (70_reset_and_hazards.md R250; 93 no. 2): what DMEM byte `a` of the output region of a command
abandoned by reset holds afterwards, at the `n`-th such abandonment. Log entry 2. -/
opaque Config.abandonedByte : Nat → Nat → Byte

/-- FREE VALUE (R236; 93 no. 3): the tag function of the n-th MAC device other than Poly1305. Log entry 4. -/
opaque Config.otherMac : Nat → Vector Byte 32 → List Byte → Vector Byte 16

end Sys2Proof
end

