-- ==== Sys2Proof/Machine/State.lean ====
section
/-! DEFINITION. The state of one block (10_state.md rule R20) as plain data, the model's own fields for the host's side (70_reset_and_hazards.md R261), the reasons a step can stop, and the state right after power-on reset (R37). -/
namespace Sys2Proof.Machine

/-- CUR (R29): `idx i` is the encoding i in 0..63, `uninit` the sentinel UNINIT = 0x7F. The values 64 to 126 are never
held and have no constructor. Log entry 11. -/
inductive Cursor where
  | uninit
  | idx (i : Fin 64)
  deriving DecidableEq, Repr

/-- ST (R31), one constructor for each of the eight 3-bit encodings 0 to 7, in that order. -/
inductive AeState where
  | uninitialized
  | aad
  | encrypt
  | decrypt
  | auth
  | finalized
  | reserved6
  | reserved7
  deriving DecidableEq, Repr

/-- A cipher: an SC slot (R26) or an AE slot's private cipher (R30). -/
structure Cipher where
  /-- W[0..15] (R27). -/
  w   : Vector Word 16
  /-- KS[0..63] (R28). -/
  ks  : Vector Byte 64
  /-- CUR (R29). -/
  cur : Cursor
  deriving DecidableEq, Repr

/-- The MAC instance of an AE slot (R34). -/
structure Mac where
  k   : Vector Byte 32
  msg : List Byte
  act : Bool
  deriving DecidableEq, Repr

/-- An AE slot (R30 to R34). -/
structure AeSlot where
  st     : AeState
  aadCnt : BitVec 64
  ctCnt  : BitVec 64
  macKey : Vector Byte 64
  c      : Cipher
  mac    : Mac
  deriving DecidableEq, Repr

/-- The width of a host register access; only `word` is allowed (20_memory.md R69). -/
inductive AccessWidth where
  | byte
  | half
  | word
  deriving DecidableEq, Repr

/-- What stands at an offset of the host register space (R76). -/
inductive HostReg where
  | arg (i : Fin 6)
  | cmd
  | status
  | res
  | reserved
  deriving DecidableEq, Repr

/-- One action of the host (30_encoding.md R93, 70 R253). -/
inductive HostAction where
  /-- A register read; a read of STATUS is R93's RD STATUS. -/
  | regRead (off : Nat) (width : AccessWidth)
  /-- A register write; a write to offset 0x20 issues a command. -/
  | regWrite (off : Nat) (width : AccessWidth) (v : Word)
  /-- HostReadByte of R68. -/
  | dmemRead (addr : Nat)
  /-- HostWriteByte of R68. -/
  | dmemWrite (addr : Nat) (v : Byte)
  /-- CHK of R93: read STATUS and stop when CODE is not OK. -/
  | chk
  /-- A STATUS read while the command the list issues next is in flight (20 R70). Log entry 7. -/
  | pollBusy
  /-- The platform asserts reset between two commands (70 R250). -/
  | reset
  /-- The host writes w to CMD and reset is asserted before that command completes (70 R250). -/
  | cmdThenReset (w : Word)
  /-- The copy of one byte by RDB then WRB, of R96's macros. Log entry 14. -/
  | dmemCopy (src dst : Nat)
  /-- OPEN_SAFE's last action (R96): read RES and, on MATCH = 0, write n zero bytes at addr and report
  AuthenticationFailure. Log entry 14. -/
  | wipeUnlessMatch (addr n : Nat)
  deriving DecidableEq, Repr

/-- What the host has reported (R93 CHK, R96). -/
inductive HostReport where
  | none
  | stopped (code : BitVec 8)
  | authenticationFailure
  deriving DecidableEq, Repr

/-- The slot a command names (60_exceptions.md R224): a cipher slot, an AEAD slot, or none. -/
inductive SlotName where
  | none
  | sc (s : Nat)
  | ae (a : Nat)
  deriving DecidableEq, Repr

/-- The status codes (R221). -/
inductive Code where
  | ok
  | invalidKeySize
  | invalidNonceSize
  | notInitialized
  | invalidState
  | invalidTagSize
  | illegalCommand
  | invalidSlot
  | boundsError
  | operandRange
  | lengthLimit
  deriving DecidableEq, Repr

/-- A state in which the model has no move. All are SAFE: the model stops where the hardware may go on. -/
inductive Fault where
  /-- Raised by a host DMEM access at or above DMEM_BYTES (R68, R253; 93 no. 15): the model gives the host no such
  move. Safe. Log entry 8. -/
  | hostDmemRange
  /-- Raised by a host register access that is not a 32-bit word at a multiple of 4 within 0x00 to 0xFF (R69, R253;
  93 no. 16). Safe. Log entry 8. -/
  | hostRegAccess
  /-- Raised by `pollBusy` where the host's list issues no command next: BUSY = 1 is read only while a command executes
  (R24, R70). Safe. Log entry 8. -/
  | noCommandInFlight
  /-- Raised by AE_ENCRYPT and AE_DECRYPT on a Live slot whose private cipher has CUR = UNINIT, a state R35 says is
  never held and for which R111 defines nothing. Safe. Log entry 10. -/
  | liveSlotWithoutCipher
  deriving DecidableEq, Repr

/-- Why an instruction is refused. -/
inductive Refusal where
  /-- Raised by an arm of exec whose instruction has no meaning yet; no arm of this model does. Safe. -/
  | notModelled (mnemonic : String)
  deriving DecidableEq, Repr

/-- The state of one block, its parameters, and the host's side. -/
structure State where
  /-- A0..A5 (R22). -/
  args  : Vector Word 6
  /-- STATUS.CODE (R24). -/
  code  : BitVec 8
  /-- STATUS.BUSY (R24); false at every command boundary. -/
  busy  : Bool
  /-- RES (R25). -/
  res   : Word
  /-- SC[0..N_SC-1] (R26). -/
  sc    : List Cipher
  /-- AE[0..N_AE-1] (R30). -/
  ae    : List AeSlot
  /-- DMEM (20 R61): the bytes written since power-on, by rising address. Log entry 1. -/
  mem   : List Host.Cell
  /-- The block's parameters (R6); no step changes them. Log entry 3. -/
  par   : Params
  /-- The MODEL's own: how many abandoned commands have drawn unspecified bytes. Log entry 2. -/
  draws : Nat
  /-- The MODEL's own: the host actions still to be performed, next first (R21, R261). Log entry 5. -/
  host  : List HostAction
  /-- The MODEL's own: the value the host's last read returned. Log entry 6. -/
  hostData : Word
  /-- The MODEL's own: what the host has reported. Log entry 6. -/
  report : HostReport
  deriving DecidableEq, Repr

/-- The zeroized cipher (R36). -/
def Cipher.zero : Cipher :=
  { w := Vector.replicate 16 0, ks := Vector.replicate 64 0, cur := .uninit }

/-- The reset MAC instance (R34). -/
def Mac.zero : Mac :=
  { k := Vector.replicate 32 0, msg := [], act := false }

/-- The zeroized AEAD slot (R36). -/
def AeSlot.zero : AeSlot :=
  { st := .uninitialized, aadCnt := 0, ctCnt := 0, macKey := Vector.replicate 64 0, c := Cipher.zero, mac := Mac.zero }

/-- The state after power-on reset (R37, 70 R250, R251), with R6's default parameters and no host action pending. -/
def State.reset : State :=
  { args := Vector.replicate 6 0
    code := 0
    busy := false
    res := 0
    sc := List.replicate Config.nScDefault Cipher.zero
    ae := List.replicate Config.nAeDefault AeSlot.zero
    mem := []
    par := { dmemBytes := Config.dmemBytesDefault, mac := .poly1305 }
    draws := 0
    host := []
    hostData := 0
    report := .none }

end Sys2Proof.Machine
end

