-- ==== Sys2Proof/Machine/Flags.lean ====
section
/-! DEFINITION. The block's status outputs: the status codes' values (60_exceptions.md rule R221), the STATUS word (10_state.md R24), the 3-bit and 7-bit field encodings (R29, R31), `Live` (42 R150) and the constant-time comparator that sets RES.MATCH (43_finalize_verify.md R192). There are no other flags (41 section 4). -/
namespace Sys2Proof.Machine

/-- R221: the value of each status code. -/
def Code.byte : Code → BitVec 8
  | .ok               => 0x00
  | .invalidKeySize   => 0x01
  | .invalidNonceSize => 0x02
  | .notInitialized   => 0x03
  | .invalidState     => 0x04
  | .invalidTagSize   => 0x05
  | .illegalCommand   => 0x10
  | .invalidSlot      => 0x11
  | .boundsError      => 0x12
  | .operandRange     => 0x13
  | .lengthLimit      => 0x14

/-- The STATUS word (R24): CODE in [7:0], BUSY in [8], [31:9] read as 0. -/
def statusWord (s : State) : Word :=
  s.code.zeroExtend 32 ||| (if s.busy then 0x100 else 0)

/-- RES.MATCH (R25). -/
def matchBit (s : State) : Bool := s.res.getLsbD 0

/-- CUR's 7-bit encoding (R29). -/
def Cursor.code : Cursor → BitVec 7
  | .uninit => 0x7F
  | .idx i  => BitVec.ofNat 7 i.val

/-- ST's 3-bit encoding (R31). -/
def AeState.code : AeState → BitVec 3
  | .uninitialized => 0
  | .aad           => 1
  | .encrypt       => 2
  | .decrypt       => 3
  | .auth          => 4
  | .finalized     => 5
  | .reserved6     => 6
  | .reserved7     => 7

/-- `Live(ST)` of 42 R150. -/
def live : AeState → Bool
  | .aad | .encrypt | .decrypt | .auth => true
  | .uninitialized | .finalized | .reserved6 | .reserved7 => false

/-- The differences CT_EQ16 accumulates over all 16 bytes (R192). -/
def ctDiff (t e : Vector Byte 16) : Byte :=
  (List.zipWith (fun a b => a ^^^ b) t.toList e.toList).foldl (fun d x => d ||| x) 0

/-- `CT_EQ16(t, e)` of R192, with its branchless fold. -/
def ctEq16 (t e : Vector Byte 16) : Word :=
  (((ctDiff t e).zeroExtend 32 - 1) >>> 8) &&& 1

end Sys2Proof.Machine
end

