-- ==== Sys2Proof/Machine/Ops.lean ====
section
/-! DEFINITION. The named operations over DMEM (20_memory.md rules R62 to R64, R74), over the slots and the registers (10_state.md), how a command completes, how it fails (60_exceptions.md R224, R225: the block's one exception-like operation; R229: there is no return from it), and the block reset (70_reset_and_hazards.md R250). -/
namespace Sys2Proof.Machine

/-- What a command answers. -/
abbrev Result := Host.Outcome State Fault Refusal

/-! ### DMEM -/

/-- What an unlisted address holds at the data layer: no written value. -/
def Memory.unlisted : Option Byte := none

/-- The byte listed at an address. -/
def Memory.find? : List Host.Cell → Nat → Option Byte
  | [], _          => Memory.unlisted
  | (b, v) :: m, a => if a = b then some v else Memory.find? m a

/-- The canonical form: addresses strictly rising. An entry holds a byte and an unlisted address holds none, so no
entry equals what an unlisted address holds. Log entry 1. -/
abbrev Memory.wf (m : List Host.Cell) : Prop := m.Pairwise (fun p q => p.1 < q.1)

/-- DMEM[a]: the byte last written, else the byte drawn at power-on (R74). -/
def Memory.read (m : List Host.Cell) (a : Nat) : Byte := (Memory.find? m a).getD (Config.dmemDraw a)

/-- DMEM[a] <- v, keeping the canonical form. -/
def Memory.write : List Host.Cell → Nat → Byte → List Host.Cell
  | [], a, v          => [(a, v)]
  | (b, w) :: m, a, v =>
    if a < b then (a, v) :: (b, w) :: m
    else if a = b then (a, v) :: m
    else (b, w) :: Memory.write m a v

/-- `MemRead` of R63 on a memory. -/
def Memory.readBytes (m : List Host.Cell) (a : Nat) : Nat → List Byte
  | 0     => []
  | n + 1 => Memory.read m a :: Memory.readBytes m (a + 1) n

/-- `MemWrite` of R64 on a memory: byte i of the string at address a + i. -/
def Memory.writeBytes (m : List Host.Cell) (a : Nat) : List Byte → List Host.Cell
  | []      => m
  | b :: bs => Memory.writeBytes (Memory.write m a b) (a + 1) bs

/-- `REGION_OK(addr, n)` of R62, on exact integers. -/
def regionOk (s : State) (addr n : Nat) : Bool := decide (addr + n ≤ s.par.dmemBytes)

/-- `MemRead(addr, n)` of R63. -/
def memRead (s : State) (addr n : Nat) : List Byte := Memory.readBytes s.mem addr n

/-- `MemWrite(addr, len(bs), bs)` of R64. -/
def memWrite (addr : Nat) (bs : List Byte) (s : State) : State :=
  { s with mem := Memory.writeBytes s.mem addr bs }

/-! ### Slots -/

/-- SC[i] <- c. -/
def setSc (i : Nat) (c : Cipher) (s : State) : State := { s with sc := s.sc.set i c }

/-- AE[i] <- x. -/
def setAe (i : Nat) (x : AeSlot) (s : State) : State := { s with ae := s.ae.set i x }

/-- ZEROIZE_SC and ZEROIZE_AE of R36, on the slot a command names. -/
def zeroize (n : SlotName) (s : State) : State :=
  match n with
  | .none => s
  | .sc i => setSc i Cipher.zero s
  | .ae i => setAe i AeSlot.zero s

/-! ### Completion and failure -/

/-- A command completes: CODE, BUSY = 0 and RES are written (R24, R25). -/
def complete (c : Code) (r : Word) (s : State) : State := { s with code := c.byte, busy := false, res := r }

/-- A command fails with code c: the slot it names is zeroized, RES <- 0, and nothing else changes (R224, R225).
Every failure of every command goes through here; there is no return (R229). -/
def fail (n : SlotName) (c : Code) (s : State) : State := complete c 0 (zeroize n s)

/-- The first failure that holds, in the order listed (R223). -/
def firstFailure : List (Bool × Code) → Option Code
  | []          => none
  | (b, c) :: t => if b then some c else firstFailure t

/-- All checks of a command run before any of its effects (R223). -/
def guarded (n : SlotName) (check : Option Code) (s : State) (k : Result) : Result :=
  match check with
  | some c => .next (fail n c s)
  | none   => k

/-- A command on SC[slot]; a slot the block does not have is InvalidSlot and touches no slot (R82). Log entry 15. -/
def withSc (slot : BitVec 8) (s : State) (k : Cipher → Result) : Result :=
  match s.sc[slot.toNat]? with
  | none   => .next (fail .none .invalidSlot s)
  | some c => k c

/-- A command on AE[slot]; a slot the block does not have is InvalidSlot and touches no slot (R82). Log entry 15. -/
def withAe (slot : BitVec 8) (s : State) (k : AeSlot → Result) : Result :=
  match s.ae[slot.toNat]? with
  | none   => .next (fail .none .invalidSlot s)
  | some x => k x

/-! ### Reset -/

/-- The block reset (R250, R37): registers 0, every slot zeroized; DMEM and the parameters are kept, and so is the
host's side, which is no part of the block (log entry 17). -/
def blockReset (s : State) : State :=
  { s with
    args := Vector.replicate 6 0
    code := 0
    busy := false
    res := 0
    sc := s.sc.map fun _ => Cipher.zero
    ae := s.ae.map fun _ => AeSlot.zero }

/-- The n bytes from addr take unspecified values, the draw of this abandonment (R250). Log entry 2. -/
def drawBytes (addr : Nat) : Nat → State → State
  | 0, s     => s
  | n + 1, s =>
    drawBytes (addr + 1) n { s with mem := Memory.write s.mem addr (Config.abandonedByte s.draws addr) }

end Sys2Proof.Machine
end

