-- ==== Sys2Proof/Machine/ChaCha.lean ====
section
/-! DEFINITION. The keystream generator (41_stream_cipher.md sections 1 to 3): the ARX mixer, the block function with its counter, the sub-key derivation, the state setup and the keystream XOR. -/
namespace Sys2Proof.Machine

/-- x[i] <- v in the working array. -/
def putWord (x : Vector Word 16) (i : Fin 16) (v : Word) : Vector Word 16 := x.set i.val v i.isLt

/-- One line of R100's pseudocode: x[a] <- x[a] + x[b], then x[d] <- rotl32(x[d] XOR x[a], n). -/
def arxStep (x : Vector Word 16) (a b d : Fin 16) (n : Nat) : Vector Word 16 :=
  let x := putWord x a (x[a] + x[b])
  putWord x d (rotl32 (x[d] ^^^ x[a]) n)

/-- `QR(x, a, b, c, d)` of R100, its four lines in order. -/
def quarterRound (x : Vector Word 16) (a b c d : Fin 16) : Vector Word 16 :=
  let x := arxStep x a b d 16
  let x := arxStep x c d b 12
  let x := arxStep x a b d 8
  arxStep x c d b 7

/-- One iteration of R101: the four column groups, then the four diagonal groups. -/
def doubleRound (x : Vector Word 16) : Vector Word 16 :=
  let x := quarterRound x 0 4 8 12
  let x := quarterRound x 1 5 9 13
  let x := quarterRound x 2 6 10 14
  let x := quarterRound x 3 7 11 15
  let x := quarterRound x 0 5 10 15
  let x := quarterRound x 1 6 11 12
  let x := quarterRound x 2 7 8 13
  quarterRound x 3 4 9 14

/-- n iterations of the double round. -/
def doubleRounds : Nat → Vector Word 16 → Vector Word 16
  | 0, x     => x
  | n + 1, x => doubleRounds n (doubleRound x)

/-- `ROUNDS20(S)` of R101. -/
def rounds20 (x : Vector Word 16) : Vector Word 16 := doubleRounds 10 x

/-- The 64 keystream bytes of a state: the add-back and the serialization of R102. -/
def keystreamBlock (w : Vector Word 16) : Vector Byte 64 :=
  toVec 64 0 (ser (List.zipWith (fun a b => a + b) (rounds20 w).toList w.toList))

/-- `INC` of R103: W[12] + 1, and W[13] + 1 when W[12] wrapped to 0. -/
def incCounter (w : Vector Word 16) : Vector Word 16 :=
  let w := putWord w 12 (w[12] + 1)
  if w[12] = 0 then putWord w 13 (w[13] + 1) else w

/-- `BLOCK(c)` of R102. -/
def block (c : Cipher) : Cipher :=
  { c with ks := keystreamBlock c.w, w := incCounter c.w }

/-- `CONSTS(klen)` of R105. -/
def consts (klen : Nat) : List Word :=
  if klen = 32 then [0x61707865, 0x3320646e, 0x79622d32, 0x6b206574]
  else [0x61707865, 0x3120646e, 0x79622d36, 0x6b206574]

/-- `KEYWORDS(key)` of R106; a 16-byte key's four words are repeated. -/
def keyWords (key : List Byte) : List Word :=
  if key.length = 32 then
    [le32 key 0, le32 key 4, le32 key 8, le32 key 12, le32 key 16, le32 key 20, le32 key 24, le32 key 28]
  else
    [le32 key 0, le32 key 4, le32 key 8, le32 key 12, le32 key 0, le32 key 4, le32 key 8, le32 key 12]

/-- Four consecutive LE32 words of a byte string (R104's nonce words). -/
def fourWords (n : List Byte) : List Word := [le32 n 0, le32 n 4, le32 n 8, le32 n 12]

/-- `DERIVE_CORE(key, n16)` of R104: no add-back, no counter increment. -/
def deriveCore (key n16 : List Byte) : List Byte :=
  let x := rounds20 (toVec 16 0 (consts key.length ++ keyWords key ++ fourWords n16))
  ser [x[0], x[1], x[2], x[3], x[12], x[13], x[14], x[15]]

/-- The loop of `REDUCE` (R109), at most `fuel` times. -/
def reduceLoop : Nat → List Byte → List Byte → List Byte × List Byte
  | 0, key, nonce        => (key, nonce)
  | fuel + 1, key, nonce =>
    if 24 ≤ nonce.length then reduceLoop fuel (deriveCore key (nonce.take 16)) (nonce.drop 16)
    else (key, nonce)

/-- `REDUCE(key, nonce)` of R109; each turn takes 16 bytes off the nonce, so its length bounds the turns. -/
def reduce (key nonce : List Byte) : List Byte × List Byte := reduceLoop nonce.length key nonce

/-- `LAYOUT(nonce, CTR)` of R108. -/
def layout (nonce : List Byte) (ctr : Nat) : List Word :=
  if nonce.length = 8 then
    [BitVec.ofNat 32 (ctr % 2 ^ 32), BitVec.ofNat 32 (ctr / 2 ^ 32), le32 nonce 0, le32 nonce 4]
  else if nonce.length = 12 then
    [BitVec.ofNat 32 (ctr % 2 ^ 32), le32 nonce 0, le32 nonce 4, le32 nonce 8]
  else fourWords nonce

/-- `CIPHER_INIT` of R110: the cipher it leaves; CUR = 63, so that the next byte needs a block. -/
def cipherInit (key nonce : List Byte) (ctr : Nat) : Cipher :=
  let r := reduce key nonce
  { w := toVec 16 0 (consts r.1.length ++ keyWords r.1 ++ layout r.2 ctr)
    ks := Vector.replicate 64 0
    cur := .idx 63 }

/-- The cipher and cursor that give the next keystream byte, when CUR = i (R111). -/
def nextByte (c : Cipher) (i : Fin 64) : Cipher × Fin 64 :=
  if i = 63 then (block c, 0) else (c, i + 1)

/-- `KSXOR(c, s)` of R111 on an initialized cipher whose CUR is i: the cipher afterwards and the output. -/
def ksXor (c : Cipher) (i : Fin 64) : List Byte → Cipher × List Byte
  | []      => ({ c with cur := .idx i }, [])
  | b :: bs =>
    let n := nextByte c i
    let r := ksXor n.1 n.2 bs
    (r.1, (b ^^^ n.1.ks.get n.2) :: r.2)

end Sys2Proof.Machine
end

