-- ==== Sys2Proof/Machine/MacPort.lean ====
section
/-! DEFINITION. The MAC port operations (60_exceptions.md rule R238) and the MAC function (R236) with its default Poly1305 (R239). -/
namespace Sys2Proof.Machine

/-- The modulus 2^130 - 5 of R239. -/
def polyPrime : Nat := 2 ^ 130 - 5

/-- The accumulation of R239 over consecutive 16-byte chunks (the last may be shorter); `fuel` bounds the chunks. -/
def polyLoop : Nat → Nat → Nat → List Byte → Nat
  | 0, _, acc, _        => acc
  | fuel + 1, r, acc, m =>
    if m.isEmpty then acc
    else polyLoop fuel r (((acc + leNat (m.take 16 ++ [1])) * r) % polyPrime) (m.drop 16)

/-- `POLY1305(K, MSG)` of R239. -/
def poly1305 (k : Vector Byte 32) (msg : List Byte) : Vector Byte 16 :=
  let r := leNat (k.toList.take 16) &&& 0x0ffffffc0ffffffc0ffffffc0fffffff
  let s := leNat (k.toList.drop 16)
  toVec 16 0 (leBytes 16 ((polyLoop msg.length r 0 msg + s) % 2 ^ 128))

/-- `MAC_FN` of R236, as the block's parameter selects it. -/
def macFn : MacFn → Vector Byte 32 → List Byte → Vector Byte 16
  | .poly1305 => poly1305
  | .other n  => Config.otherMac n

/-- `MAC_init(k)` of R238. -/
def macInit (k : Vector Byte 32) : Mac := { k := k, msg := [], act := true }

/-- `MAC_update(s)` of R238. -/
def macUpdate (m : Mac) (bs : List Byte) : Mac := { m with msg := m.msg ++ bs }

/-- `MAC_final()` of R238: the tag and the reset instance. -/
def macFinal (f : MacFn) (m : Mac) : Vector Byte 16 × Mac := (macFn f m.k m.msg, Mac.zero)

end Sys2Proof.Machine
end

