-- ==== Sys2Proof/Machine/Operands.lean ====
section
/-! DEFINITION. Every operand form: the argument registers as exact integers (30_encoding.md rules R85 to R87), the nonce-length forms (41_stream_cipher.md R107), the counter operand (R86) and the host register map (20_memory.md R76, R69). -/
namespace Sys2Proof.Machine

/-- A[i] zero-extended to an exact integer (R85). -/
def argNat (s : State) (i : Fin 6) : Nat := s.args[i].toNat

/-- The counter operand CTR (R86). -/
def ctrOperand (s : State) : Nat := argNat s 5 * 2 ^ 32 + argNat s 4

/-- A key length is 16 or 32 (41 R113). -/
def keySizeOk (n : Nat) : Bool := n = 16 || n = 32

/-- `NONCE_OK(L)` in R107's closed form. -/
def nonceOk (n : Nat) : Bool := decide (8 ≤ n) && (n % 16 = 0 || n % 16 = 8 || n % 16 = 12)

/-- `EFFLEN(L)` of R107 for a valid L: L reduced by 16 until it is below 24. -/
def effLen (n : Nat) : Nat := 8 + (n - 8) % 16

/-- `PAD16(n)` of 42 R151. -/
def pad16 (n : Nat) : Nat := (16 - n % 16) % 16

/-- A host register access is a 32-bit word at a multiple of 4 within 0x00 to 0xFF (R69). -/
def regAccessOk (off : Nat) (width : AccessWidth) : Bool :=
  decide (width = .word) && decide (off % 4 = 0) && decide (off < 0x100)

/-- The register map (R76), for an allowed offset. -/
def hostRegAt (off : Nat) : HostReg :=
  if off = 0x00 then .arg 0
  else if off = 0x04 then .arg 1
  else if off = 0x08 then .arg 2
  else if off = 0x0C then .arg 3
  else if off = 0x10 then .arg 4
  else if off = 0x14 then .arg 5
  else if off = 0x20 then .cmd
  else if off = 0x24 then .status
  else if off = 0x28 then .res
  else .reserved

/-- What a host register read returns (R69, R23 to R25). -/
def hostRegValue (s : State) : HostReg → Word
  | .arg i    => s.args[i]
  | .cmd      => 0
  | .status   => statusWord s
  | .res      => s.res
  | .reserved => 0

/-- A[i] <- v (R22). -/
def setArg (i : Fin 6) (v : Word) (s : State) : State := { s with args := s.args.set i.val v i.isLt }

end Sys2Proof.Machine
end

