-- ==== Sys2Proof/Machine/AeadSequencing.lean ====
section
/-! DEFINITION. The AEAD sequencing family: AE_INIT, AE_AAD, AE_ENCRYPT, AE_DECRYPT, AE_AUTH and AE_DESTROY (42_aead_sequencing.md). -/
namespace Sys2Proof.Machine

/-- AE_INIT's checks in order (R152). -/
def aeInitCheck (s : State) : Option Code :=
  firstFailure
    [(!keySizeOk (argNat s 1), .invalidKeySize),
     (!nonceOk (argNat s 3), .invalidNonceSize),
     (!regionOk s (argNat s 0) (argNat s 1) || !regionOk s (argNat s 2) (argNat s 3), .boundsError)]

/-- The slot AE_INIT leaves (R152): counter 0, MACKEY from keystream block 0, the MAC keyed by its first 32 bytes.
CIPHER_INIT leaves CUR = 63, so KSXOR starts there. -/
def aeStart (key nonce : List Byte) : AeSlot :=
  let r := ksXor (cipherInit key nonce 0) 63 (zeros 64)
  { st := .aad
    aadCnt := 0
    ctCnt := 0
    macKey := toVec 64 0 r.2
    c := r.1
    mac := macInit (toVec 32 0 (r.2.take 32)) }

/-- AE_INIT (R152). -/
def execAeInit (slot : BitVec 8) (s : State) : Result :=
  withAe slot s fun _ =>
    guarded (.ae slot.toNat) (aeInitCheck s) s
      (.next (complete .ok 0 (setAe slot.toNat
        (aeStart (memRead s (argNat s 0) (argNat s 1)) (memRead s (argNat s 2) (argNat s 3))) s)))

/-- AE_AAD's checks in order (R153). -/
def aeAadCheck (x : AeSlot) (s : State) : Option Code :=
  firstFailure
    [(!live x.st, .notInitialized),
     (decide (x.st ≠ .aad), .invalidState),
     (!regionOk s (argNat s 0) (argNat s 1), .boundsError),
     (decide (2 ^ 53 ≤ x.aadCnt.toNat + argNat s 1), .lengthLimit)]

/-- AE_AAD (R153). -/
def execAeAad (slot : BitVec 8) (s : State) : Result :=
  withAe slot s fun x =>
    guarded (.ae slot.toNat) (aeAadCheck x s) s
      (.next (complete .ok 0 (setAe slot.toNat
        { x with
          mac := macUpdate x.mac (memRead s (argNat s 0) (argNat s 1))
          aadCnt := x.aadCnt + BitVec.ofNat 64 (argNat s 1) } s)))

/-- ENTER's checks in order (R154). -/
def enterCheck (mode : AeState) (x : AeSlot) (s : State) : Option Code :=
  firstFailure
    [(!live x.st, .notInitialized),
     (decide (x.st ≠ .aad) && decide (x.st ≠ mode), .invalidState),
     (!regionOk s (argNat s 0) (argNat s 1), .boundsError),
     (decide (2 ^ 53 ≤ x.ctCnt.toNat + argNat s 1), .lengthLimit)]

/-- ENTER's effect (R154): the first data command pads the AAD and locks the mode. -/
def enterMode (mode : AeState) (x : AeSlot) : AeSlot :=
  if x.st = .aad then { x with mac := macUpdate x.mac (zeros (pad16 x.aadCnt.toNat)), st := mode } else x

/-- A data command absorbs a ciphertext of n bytes and leaves the private cipher c (R155 to R157). -/
def absorb (x : AeSlot) (c : Cipher) (ct : List Byte) (n : Nat) : AeSlot :=
  { x with c := c, mac := macUpdate x.mac ct, ctCnt := x.ctCnt + BitVec.ofNat 64 n }

/-- KSXOR needs an initialized private cipher (R111); R35 says a Live slot has one. Log entry 10. -/
def withCursor (x : AeSlot) (k : Fin 64 → Result) : Result :=
  match x.c.cur with
  | .uninit => .fault .liveSlotWithoutCipher
  | .idx i  => k i

/-- AE_ENCRYPT (R155): the MAC absorbs what the cipher wrote. -/
def execAeEncrypt (slot : BitVec 8) (s : State) : Result :=
  withAe slot s fun x =>
    guarded (.ae slot.toNat) (enterCheck .encrypt x s) s
      (withCursor x fun i =>
        let r := ksXor x.c i (memRead s (argNat s 0) (argNat s 1))
        .next (complete .ok 0 (memWrite (argNat s 0) r.2
          (setAe slot.toNat (absorb (enterMode .encrypt x) r.1 r.2 (argNat s 1)) s))))

/-- AE_DECRYPT (R156): the MAC absorbs what stood in DMEM before. -/
def execAeDecrypt (slot : BitVec 8) (s : State) : Result :=
  withAe slot s fun x =>
    guarded (.ae slot.toNat) (enterCheck .decrypt x s) s
      (withCursor x fun i =>
        let ct := memRead s (argNat s 0) (argNat s 1)
        let r := ksXor x.c i ct
        .next (complete .ok 0 (memWrite (argNat s 0) r.2
          (setAe slot.toNat (absorb (enterMode .decrypt x) r.1 ct (argNat s 1)) s))))

/-- AE_AUTH (R157): no cipher transform, DMEM and the private cipher unchanged. -/
def execAeAuth (slot : BitVec 8) (s : State) : Result :=
  withAe slot s fun x =>
    guarded (.ae slot.toNat) (enterCheck .auth x s) s
      (.next (complete .ok 0 (setAe slot.toNat
        (absorb (enterMode .auth x) x.c (memRead s (argNat s 0) (argNat s 1)) (argNat s 1)) s)))

/-- AE_DESTROY (R158). -/
def execAeDestroy (slot : BitVec 8) (s : State) : Result :=
  withAe slot s fun _ => .next (complete .ok 0 (zeroize (.ae slot.toNat) s))

end Sys2Proof.Machine
end

