-- ==== Sys2Proof/Machine/FinalizeVerify.lean ====
section
/-! DEFINITION. The finalize and verify family: AE_FINAL and AE_VERIFY (43_finalize_verify.md). -/
namespace Sys2Proof.Machine

/-- The MAC instance after FINALIZE's updates (R190): the AAD padding if no data command gave it, the ciphertext
padding, the length trailer. -/
def finalizeMac (x : AeSlot) : Mac :=
  let m := if x.st = .aad then macUpdate x.mac (zeros (pad16 x.aadCnt.toNat)) else x.mac
  let m := macUpdate m (zeros (pad16 x.ctCnt.toNat))
  macUpdate m (bytes64 x.aadCnt.toNat ++ bytes64 x.ctCnt.toNat)

/-- The tag `FINALIZE(a)` returns (R190); the slot is zeroized by the command. -/
def finalizeTag (f : MacFn) (x : AeSlot) : Vector Byte 16 := (macFinal f (finalizeMac x)).1

/-- AE_FINAL's checks in order (R191). -/
def aeFinalCheck (x : AeSlot) (s : State) : Option Code :=
  firstFailure [(!live x.st, .notInitialized), (!regionOk s (argNat s 0) 16, .boundsError)]

/-- AE_FINAL (R191). -/
def execAeFinal (slot : BitVec 8) (s : State) : Result :=
  withAe slot s fun x =>
    guarded (.ae slot.toNat) (aeFinalCheck x s) s
      (.next (complete .ok 0 (memWrite (argNat s 0) (finalizeTag s.par.mac x).toList
        (zeroize (.ae slot.toNat) s))))

/-- AE_VERIFY's checks in order (R193): the tag length before the state. -/
def aeVerifyCheck (x : AeSlot) (s : State) : Option Code :=
  firstFailure
    [(decide (argNat s 1 ≠ 16), .invalidTagSize),
     (!live x.st, .notInitialized),
     (!regionOk s (argNat s 0) 16, .boundsError)]

/-- AE_VERIFY (R193): RES.MATCH is CT_EQ16 of the computed and the expected tag; the computed tag goes nowhere else
(R195). -/
def execAeVerify (slot : BitVec 8) (s : State) : Result :=
  withAe slot s fun x =>
    guarded (.ae slot.toNat) (aeVerifyCheck x s) s
      (.next (complete .ok (ctEq16 (finalizeTag s.par.mac x) (toVec 16 0 (memRead s (argNat s 0) 16)))
        (zeroize (.ae slot.toNat) s)))

end Sys2Proof.Machine
end

