-- ==== Sys2Proof/Machine/StreamCipher.lean ====
section
/-! DEFINITION. The stream-cipher family: SC_INIT, SC_XOR, SC_DESTROY and DERIVE (41_stream_cipher.md section 4). -/
namespace Sys2Proof.Machine

/-- SC_INIT's checks in order (R113). -/
def scInitCheck (s : State) : Option Code :=
  firstFailure
    [(!keySizeOk (argNat s 1), .invalidKeySize),
     (!nonceOk (argNat s 3), .invalidNonceSize),
     (decide (2 ^ 53 ≤ ctrOperand s), .operandRange),
     (decide (effLen (argNat s 3) = 12) && decide (2 ^ 32 ≤ ctrOperand s), .operandRange),
     (!regionOk s (argNat s 0) (argNat s 1) || !regionOk s (argNat s 2) (argNat s 3), .boundsError)]

/-- SC_INIT (R113). -/
def execScInit (slot : BitVec 8) (s : State) : Result :=
  withSc slot s fun _ =>
    guarded (.sc slot.toNat) (scInitCheck s) s
      (.next (complete .ok 0 (setSc slot.toNat
        (cipherInit (memRead s (argNat s 0) (argNat s 1)) (memRead s (argNat s 2) (argNat s 3)) (ctrOperand s)) s)))

/-- SC_XOR (R114): NotInitialized, then BoundsError, then the in-place transform. -/
def execScXor (slot : BitVec 8) (s : State) : Result :=
  withSc slot s fun c =>
    match c.cur with
    | .uninit => .next (fail (.sc slot.toNat) .notInitialized s)
    | .idx i =>
      guarded (.sc slot.toNat) (firstFailure [(!regionOk s (argNat s 0) (argNat s 1), .boundsError)]) s
        (let r := ksXor c i (memRead s (argNat s 0) (argNat s 1))
         .next (complete .ok 0 (memWrite (argNat s 0) r.2 (setSc slot.toNat r.1 s))))

/-- SC_DESTROY (R115). -/
def execScDestroy (slot : BitVec 8) (s : State) : Result :=
  withSc slot s fun _ => .next (complete .ok 0 (zeroize (.sc slot.toNat) s))

/-- DERIVE's checks in order (R116). -/
def deriveCheck (s : State) : Option Code :=
  firstFailure
    [(!keySizeOk (argNat s 1), .invalidKeySize),
     (!regionOk s (argNat s 0) (argNat s 1) || !regionOk s (argNat s 2) 16 || !regionOk s (argNat s 3) 32,
      .boundsError)]

/-- DERIVE (R116): all inputs are read before the output is written (20 R71). -/
def execDerive (s : State) : Result :=
  guarded .none (deriveCheck s) s
    (.next (complete .ok 0 (memWrite (argNat s 3)
      (deriveCore (memRead s (argNat s 0) (argNat s 1)) (memRead s (argNat s 2) 16)) s)))

end Sys2Proof.Machine
end

