-- ==== Sys2Proof/Machine/Dispatch.lean ====
section
/-! DEFINITION. The effect of each command, one arm per constructor of Instr (30_encoding.md rule R84). -/
namespace Sys2Proof.Machine

def exec (i : Instr) (s : State) : Host.Outcome State Fault Refusal :=
  match i with
  | .scInit slot => Sys2Proof.Machine.execScInit slot s
  | .scXor slot => Sys2Proof.Machine.execScXor slot s
  | .scDestroy slot => Sys2Proof.Machine.execScDestroy slot s
  | .derive => Sys2Proof.Machine.execDerive s
  | .aeInit slot => Sys2Proof.Machine.execAeInit slot s
  | .aeAad slot => Sys2Proof.Machine.execAeAad slot s
  | .aeEncrypt slot => Sys2Proof.Machine.execAeEncrypt slot s
  | .aeDecrypt slot => Sys2Proof.Machine.execAeDecrypt slot s
  | .aeAuth slot => Sys2Proof.Machine.execAeAuth slot s
  | .aeFinal slot => Sys2Proof.Machine.execAeFinal slot s
  | .aeVerify slot => Sys2Proof.Machine.execAeVerify slot s
  | .aeDestroy slot => Sys2Proof.Machine.execAeDestroy slot s

end Sys2Proof.Machine
end

