-- ==== Sys2Proof/Machine/HostPort.lean ====
section
/-! DEFINITION. The host's side: issuing a command through CMD (10_state.md rule R23, 30_encoding.md R91), the register and DMEM ports (20_memory.md R68, R69), CHK (30 R93), STATUS polling (20 R70) and reset, between commands and during one (70_reset_and_hazards.md R250). -/
namespace Sys2Proof.Machine

/-- A write of w to CMD: BUSY is 1 while the command executes; a reserved word completes with IllegalCommand and an
absent slot with InvalidSlot (R88, R82, R91), every other word runs its command. One atomic step (20 R70). -/
def issue (w : Word) (s : State) : Result :=
  let s := { s with busy := true }
  match decode s.sc.length s.ae.length w with
  | .illegal => .next (fail .none .illegalCommand s)
  | .badSlot => .next (fail .none .invalidSlot s)
  | .cmd i   => exec i s

/-- The DMEM region a successful command writes: its in-place buffer, tag output or DERIVE output (R250). -/
def outputRegion (i : Instr) (s : State) : Nat × Nat :=
  match i with
  | .scXor _ | .aeEncrypt _ | .aeDecrypt _ => (argNat s 0, argNat s 1)
  | .derive => (argNat s 3, 32)
  | .aeFinal _ => (argNat s 0, 16)
  | .scInit _ | .scDestroy _ | .aeInit _ | .aeAad _ | .aeAuth _ | .aeVerify _ | .aeDestroy _ => (0, 0)

/-- A command abandoned by reset: if it would have succeeded, every byte of the region it writes holds an unspecified
value; one that would have failed writes no byte (R225). Then the block is reset (R250). Log entries 2 and 17. -/
def abandon (w : Word) (s : State) : State :=
  let drawn :=
    match decode s.sc.length s.ae.length w with
    | .illegal => s
    | .badSlot => s
    | .cmd i =>
      match exec i s with
      | .next t =>
        if t.code = Code.ok.byte then
          drawBytes (outputRegion i s).1 (outputRegion i s).2 s
        else s
      | .fault _   => s
      | .refused _ => s
  blockReset { drawn with draws := s.draws + 1 }

/-- Whether the list issues a command next, after any further polls. -/
def commandNext : List HostAction → Bool
  | .pollBusy :: t            => commandNext t
  | .regWrite off width _ :: _ => regAccessOk off width && decide (hostRegAt off = .cmd)
  | .cmdThenReset _ :: _      => true
  | _                         => false

/-- A register read (R69): no side effect. -/
def regReadAct (off : Nat) (width : AccessWidth) (s : State) : Result :=
  if regAccessOk off width then .next { s with hostData := hostRegValue s (hostRegAt off) }
  else .fault .hostRegAccess

/-- A register write (R69): sets an argument register, issues a command, or is ignored. -/
def regWriteAct (off : Nat) (width : AccessWidth) (v : Word) (s : State) : Result :=
  if regAccessOk off width then
    match hostRegAt off with
    | .arg i    => .next (setArg i v s)
    | .cmd      => issue v s
    | .status   => .next s
    | .res      => .next s
    | .reserved => .next s
  else .fault .hostRegAccess

/-- HostReadByte (R68). -/
def dmemReadAct (a : Nat) (s : State) : Result :=
  if a < s.par.dmemBytes then .next { s with hostData := (Memory.read s.mem a).zeroExtend 32 }
  else .fault .hostDmemRange

/-- HostWriteByte (R68). -/
def dmemWriteAct (a : Nat) (v : Byte) (s : State) : Result :=
  if a < s.par.dmemBytes then .next { s with mem := Memory.write s.mem a v } else .fault .hostDmemRange

/-- CHK (30 R93): STATUS is read; a code other than OK stops the host's sequence and is reported. -/
def chkAct (s : State) : Result :=
  let s := { s with hostData := statusWord s }
  if s.code = Code.ok.byte then .next s else .next { s with host := [], report := .stopped s.code }

/-- A STATUS read while the next command is in flight returns BUSY = 1 with the previous CODE and changes nothing
(R70, R24). -/
def pollBusyAct (s : State) : Result :=
  if commandNext s.host then .next { s with hostData := statusWord { s with busy := true } }
  else .fault .noCommandInFlight

/-- RDB of src then WRB of that byte to dst (30 R96). -/
def dmemCopyAct (src dst : Nat) (s : State) : Result :=
  if src < s.par.dmemBytes ∧ dst < s.par.dmemBytes then
    .next { s with
      hostData := (Memory.read s.mem src).zeroExtend 32
      mem := Memory.write s.mem dst (Memory.read s.mem src) }
  else .fault .hostDmemRange

/-- OPEN_SAFE's end (30 R96): on MATCH = 0 the copy is cleared and AuthenticationFailure reported. -/
def wipeUnlessMatchAct (a n : Nat) (s : State) : Result :=
  let s := { s with hostData := s.res }
  if matchBit s then .next s
  else if a + n ≤ s.par.dmemBytes then
    .next { memWrite a (zeros n) s with report := .authenticationFailure }
  else .fault .hostDmemRange

/-- One host action (R93, R253). -/
def hostAct (act : HostAction) (s : State) : Result :=
  match act with
  | .regRead off width    => regReadAct off width s
  | .regWrite off width v => regWriteAct off width v s
  | .dmemRead a           => dmemReadAct a s
  | .dmemWrite a v        => dmemWriteAct a v s
  | .chk                  => chkAct s
  | .pollBusy             => pollBusyAct s
  | .reset                => .next (blockReset s)
  | .cmdThenReset w       => .next (abandon w s)
  | .dmemCopy src dst     => dmemCopyAct src dst s
  | .wipeUnlessMatch a n  => wipeUnlessMatchAct a n s

/-- The host's next action; with none left the block is idle and nothing changes (70 R251). Log entry 9. -/
def hostTurn (s : State) : Result :=
  match s.host with
  | []       => .next s
  | a :: acts => hostAct a { s with host := acts }

/-- The CMD write that issues w (R76: offset 0x20). -/
def cmdWrite (w : Word) : HostAction := .regWrite 0x20 .word w

end Sys2Proof.Machine
end

