-- ==== Sys2Proof/Machine/Step.lean ====
section
/-! DEFINITION. One step: the host's next action, a command being one atomic step (20_memory.md rule R70, 70_reset_and_hazards.md R261). -/
namespace Sys2Proof.Machine

def step (s : State) : Host.Outcome State Fault Refusal := hostTurn s

/-- The command word w placed where the next command comes from: a CMD write at the front of the host's list
(10_state.md R21, R23). Log entries 5 and 16. -/
def State.withFetchWord (s : State) (nbits w : Nat) : State :=
  { s with host := cmdWrite (BitVec.ofNat 32 (w % 2 ^ nbits)) :: s.host }

end Sys2Proof.Machine
end

