-- ==== Sys2Proof/Machine/Macros.lean ====
section
/-! DEFINITION. Host action lists in the syntax of 30_encoding.md rule R93 and the host macros of R95 and R96. They are host software, not commands: each is a list the host's side of the state can hold. -/
namespace Sys2Proof.Machine

/-- `WR An, v` (R93): register offset 4n. -/
def wrArg (n : Fin 6) (v : Word) : HostAction := .regWrite (4 * n.val) .word v

/-- `WRB addr, bytes` (R93). -/
def wrBytes (addr : Nat) : List Byte → List HostAction
  | []      => []
  | b :: bs => .dmemWrite addr b :: wrBytes (addr + 1) bs

/-- `CMD mnemonic s` (R93). -/
def cmdAction (i : Instr) : HostAction := cmdWrite (encode i)

/-- `RD STATUS` (R93). -/
def rdStatus : HostAction := .regRead 0x24 .word

/-- `RD RES` (R93). -/
def rdRes : HostAction := .regRead 0x28 .word

/-- `RDB addr, n` (R93). -/
def rdBytes (addr : Nat) : Nat → List HostAction
  | 0     => []
  | n + 1 => .dmemRead addr :: rdBytes (addr + 1) n

/-- The operands of a macro (R95): slot, key, nonce, optional AAD, message buffer, tag address. -/
structure MacroOperands where
  x     : BitVec 8
  k     : Word
  klen  : Word
  n     : Word
  nlen  : Word
  aad   : Option (Word × Word)
  p     : Word
  plen  : Word
  t     : Word
  deriving DecidableEq, Repr

/-- The part every macro begins with (R95): AE_INIT and the AAD if given. -/
def macroStart (o : MacroOperands) : List HostAction :=
  [wrArg 0 o.k, wrArg 1 o.klen, wrArg 2 o.n, wrArg 3 o.nlen, cmdAction (.aeInit o.x), .chk]
    ++ match o.aad with
       | none           => []
       | some (a, alen) => [wrArg 0 a, wrArg 1 alen, cmdAction (.aeAad o.x), .chk]

/-- The data command of a macro over its message buffer (R95). -/
def macroData (i : Instr) (o : MacroOperands) : List HostAction :=
  [wrArg 0 o.p, wrArg 1 o.plen, cmdAction i, .chk]

/-- The end of SEAL and AUTH_TAG (R95). -/
def macroTag (o : MacroOperands) : List HostAction := [wrArg 0 o.t, cmdAction (.aeFinal o.x), .chk]

/-- The end of OPEN and AUTH_CHECK (R95). -/
def macroCheck (o : MacroOperands) : List HostAction :=
  [wrArg 0 o.t, wrArg 1 16, cmdAction (.aeVerify o.x), .chk, rdRes]

/-- SEAL (R95). -/
def sealMacro (o : MacroOperands) : List HostAction := macroStart o ++ macroData (.aeEncrypt o.x) o ++ macroTag o

/-- OPEN (R95). -/
def openMacro (o : MacroOperands) : List HostAction := macroStart o ++ macroData (.aeDecrypt o.x) o ++ macroCheck o

/-- AUTH_TAG (R95). -/
def authTagMacro (o : MacroOperands) : List HostAction := macroStart o ++ macroData (.aeAuth o.x) o ++ macroTag o

/-- AUTH_CHECK (R95). -/
def authCheckMacro (o : MacroOperands) : List HostAction := macroStart o ++ macroData (.aeAuth o.x) o ++ macroCheck o

/-- The copy of n bytes from p to q by RDB and WRB (R96). -/
def copyBytes (p q : Nat) : Nat → List HostAction
  | 0     => []
  | n + 1 => .dmemCopy p q :: copyBytes (p + 1) (q + 1) n

/-- SEAL_SAFE (R96): the copy at q is sealed, p is never written. -/
def sealSafeMacro (o : MacroOperands) (q : Word) : List HostAction :=
  copyBytes o.p.toNat q.toNat o.plen.toNat ++ sealMacro { o with p := q }

/-- OPEN_SAFE (R96): the copy at q is opened; on MATCH = 0 it is cleared and AuthenticationFailure reported. -/
def openSafeMacro (o : MacroOperands) (q : Word) : List HostAction :=
  copyBytes o.p.toNat q.toNat o.plen.toNat ++ openMacro { o with p := q }
    ++ [.wipeUnlessMatch q.toNat o.plen.toNat]

end Sys2Proof.Machine
end

