-- ==== Sys2Proof/Safety.lean ====
section
/-! DEFINITION. What holds at every command boundary: the slot invariants of 10_state.md rule R35, the ranges of R24, R25, R29, R31, R32, the parameters' legal values (00_scope.md R6) and DMEM's canonical form. And the spec's tables the statements are made in, none of which the machine uses: the priority order and the codes of each command (60_exceptions.md R222, R223), the AEAD transition table (42_aead_sequencing.md R150) and the keystream as one sequence of blocks (41_stream_cipher.md R111). -/
namespace Sys2Proof.Machine

/-- R221: "No other value is ever written to CODE". -/
def legalCode (c : BitVec 8) : Prop :=
  c ∈ [(0x00 : BitVec 8), 0x01, 0x02, 0x03, 0x04, 0x05, 0x10, 0x11, 0x12, 0x13, 0x14]

/-- R29, R36: an uninitialized cipher holds its zeroized value. -/
def CipherInv (c : Cipher) : Prop := c.cur = .uninit → c = Cipher.zero

/-- R35's clauses on MAC.MSG: the AAD alone in state Aad; the padded AAD and then the CTCNT data bytes in a data mode. -/
def MsgInv (x : AeSlot) : Prop :=
  match x.st with
  | .aad => x.mac.msg.length = x.aadCnt.toNat ∧ x.ctCnt = 0
  | .encrypt | .decrypt | .auth =>
    ∃ aad m, x.mac.msg = aad ++ zeros (pad16 x.aadCnt.toNat) ++ m
      ∧ aad.length = x.aadCnt.toNat ∧ m.length = x.ctCnt.toNat
  | .uninitialized | .finalized | .reserved6 | .reserved7 => True

/-- R35, with R31 (Finalized, 6 and 7 are never held) and R32 (counters below 2^53). -/
structure AeInv (x : AeSlot) : Prop where
  zeroized : x.st = .uninitialized → x = AeSlot.zero
  held     : x.st ≠ .uninitialized → live x.st = true
  cipher   : x.st ≠ .uninitialized → x.c.cur ≠ .uninit
  macAct   : x.st ≠ .uninitialized → x.mac.act = true
  macKey   : x.st ≠ .uninitialized → x.mac.k.toList = x.macKey.toList.take 32
  aadBound : x.aadCnt.toNat < 2 ^ 53
  ctBound  : x.ctCnt.toNat < 2 ^ 53
  message  : MsgInv x

/-- The state invariant at a command boundary. -/
structure State.Inv (s : State) : Prop where
  codeLegal : legalCode s.code
  idle      : s.busy = false
  resBits   : s.res = 0 ∨ s.res = 1
  scCount   : 1 ≤ s.sc.length ∧ s.sc.length ≤ 256
  aeCount   : 1 ≤ s.ae.length ∧ s.ae.length ≤ 256
  memSize   : 1 ≤ s.par.dmemBytes ∧ s.par.dmemBytes ≤ 2 ^ 32
  memForm   : Memory.wf s.mem
  memRange  : ∀ p ∈ s.mem, p.1 < s.par.dmemBytes
  ciphers   : ∀ c ∈ s.sc, CipherInv c
  contexts  : ∀ x ∈ s.ae, AeInv x

/-! ### The spec's tables -/

/-- The slot a command names (R224); DERIVE names none. -/
def slotNamed : Instr → SlotName
  | .scInit s | .scXor s | .scDestroy s => .sc s.toNat
  | .derive => .none
  | .aeInit a | .aeAad a | .aeEncrypt a | .aeDecrypt a | .aeAuth a | .aeFinal a | .aeVerify a | .aeDestroy a =>
    .ae a.toNat

/-- Whether the named cipher slot is uninitialized (R29). -/
def scUninit (s : State) (slot : BitVec 8) : Bool :=
  match s.sc[slot.toNat]? with
  | some c => decide (c.cur = .uninit)
  | none   => false

/-- The named AEAD slot's ST (R31). -/
def aeSt (s : State) (slot : BitVec 8) : AeState :=
  match s.ae[slot.toNat]? with
  | some x => x.st
  | none   => .uninitialized

/-- The named AEAD slot's CTCNT and AADCNT (R32). -/
def aeCounts (s : State) (slot : BitVec 8) : Nat × Nat :=
  match s.ae[slot.toNat]? with
  | some x => (x.ctCnt.toNat, x.aadCnt.toNat)
  | none   => (0, 0)

/-- The regions a command uses (R62, R223), by the operand table of 30_encoding.md R85. -/
def regionsOf (i : Instr) (s : State) : List (Nat × Nat) :=
  match i with
  | .scInit _ | .aeInit _ => [(argNat s 0, argNat s 1), (argNat s 2, argNat s 3)]
  | .scXor _ | .aeAad _ | .aeEncrypt _ | .aeDecrypt _ | .aeAuth _ => [(argNat s 0, argNat s 1)]
  | .derive => [(argNat s 0, argNat s 1), (argNat s 2, 16), (argNat s 3, 32)]
  | .aeFinal _ | .aeVerify _ => [(argNat s 0, 16)]
  | .scDestroy _ | .aeDestroy _ => []

/-- Whether a failure's cause (R221) holds for a command that is no reserved encoding. -/
def failureHolds (i : Instr) (s : State) : Code → Bool
  | .ok => false
  | .illegalCommand => false
  | .invalidSlot => !wellFormed s.sc.length s.ae.length i
  | .invalidKeySize =>
    match i with
    | .scInit _ | .derive | .aeInit _ => decide (argNat s 1 ≠ 16 ∧ argNat s 1 ≠ 32)
    | _ => false
  | .invalidNonceSize =>
    match i with
    | .scInit _ | .aeInit _ => !nonceOk (argNat s 3)
    | _ => false
  | .invalidTagSize =>
    match i with
    | .aeVerify _ => decide (argNat s 1 ≠ 16)
    | _ => false
  | .notInitialized =>
    match i with
    | .scXor c => scUninit s c
    | .aeAad a | .aeEncrypt a | .aeDecrypt a | .aeAuth a | .aeFinal a | .aeVerify a => !live (aeSt s a)
    | _ => false
  | .invalidState =>
    match i with
    | .aeAad a     => decide (aeSt s a ≠ .aad)
    | .aeEncrypt a => decide (aeSt s a ≠ .aad ∧ aeSt s a ≠ .encrypt)
    | .aeDecrypt a => decide (aeSt s a ≠ .aad ∧ aeSt s a ≠ .decrypt)
    | .aeAuth a    => decide (aeSt s a ≠ .aad ∧ aeSt s a ≠ .auth)
    | _ => false
  | .operandRange =>
    match i with
    | .scInit _ => decide (2 ^ 53 ≤ ctrOperand s ∨ (effLen (argNat s 3) = 12 ∧ 2 ^ 32 ≤ ctrOperand s))
    | _ => false
  | .boundsError => (regionsOf i s).any fun r => decide (s.par.dmemBytes < r.1 + r.2)
  | .lengthLimit =>
    match i with
    | .aeAad a => decide (2 ^ 53 ≤ (aeCounts s a).2 + argNat s 1)
    | .aeEncrypt a | .aeDecrypt a | .aeAuth a => decide (2 ^ 53 ≤ (aeCounts s a).1 + argNat s 1)
    | _ => false

/-- R223's order after IllegalCommand. -/
def priority : List Code :=
  [.invalidSlot, .invalidKeySize, .invalidNonceSize, .invalidTagSize, .notInitialized, .invalidState, .operandRange,
   .boundsError, .lengthLimit]

/-- The code R223 gives a command: the first failure that holds, OK if none does. -/
def expectedCode (i : Instr) (s : State) : Code := (priority.find? (failureHolds i s)).getD .ok

/-- R222's table: the codes a command can report besides OK. -/
def codesOf : Instr → List Code
  | .scInit _    => [.invalidSlot, .invalidKeySize, .invalidNonceSize, .operandRange, .boundsError]
  | .scXor _     => [.invalidSlot, .notInitialized, .boundsError]
  | .scDestroy _ => [.invalidSlot]
  | .derive      => [.invalidKeySize, .boundsError]
  | .aeInit _    => [.invalidSlot, .invalidKeySize, .invalidNonceSize, .boundsError]
  | .aeAad _     => [.invalidSlot, .notInitialized, .invalidState, .boundsError, .lengthLimit]
  | .aeEncrypt _ | .aeDecrypt _ | .aeAuth _ =>
    [.invalidSlot, .notInitialized, .invalidState, .boundsError, .lengthLimit]
  | .aeFinal _   => [.invalidSlot, .notInitialized, .boundsError]
  | .aeVerify _  => [.invalidSlot, .invalidTagSize, .notInitialized, .boundsError]
  | .aeDestroy _ => [.invalidSlot]

/-- The AEAD slot a command names, none for the stream-cipher family. -/
def aeSlotOf : Instr → Option (BitVec 8)
  | .scInit _ | .scXor _ | .scDestroy _ | .derive => none
  | .aeInit a | .aeAad a | .aeEncrypt a | .aeDecrypt a | .aeAuth a | .aeFinal a | .aeVerify a | .aeDestroy a => some a

/-- One entry of R150's table, for a data command that locks `mode`. -/
def dataEntry (mode : AeState) : AeState → Except Code AeState
  | .aad => .ok mode
  | .encrypt => if mode = .encrypt then .ok mode else .error .invalidState
  | .decrypt => if mode = .decrypt then .ok mode else .error .invalidState
  | .auth => if mode = .auth then .ok mode else .error .invalidState
  | .uninitialized | .finalized | .reserved6 | .reserved7 => .error .notInitialized

/-- R150's transition table: the state after a successful command, or the failure code. Rows Finalized, 6 and 7 are as
Uninitialized. The stream-cipher family has no column. -/
def aeTable (i : Instr) (st : AeState) : Except Code AeState :=
  match i with
  | .aeInit _ => .ok .aad
  | .aeAad _ =>
    match st with
    | .aad => .ok .aad
    | .encrypt | .decrypt | .auth => .error .invalidState
    | .uninitialized | .finalized | .reserved6 | .reserved7 => .error .notInitialized
  | .aeEncrypt _ => dataEntry .encrypt st
  | .aeDecrypt _ => dataEntry .decrypt st
  | .aeAuth _ => dataEntry .auth st
  | .aeFinal _ | .aeVerify _ =>
    match st with
    | .aad | .encrypt | .decrypt | .auth => .ok .uninitialized
    | .uninitialized | .finalized | .reserved6 | .reserved7 => .error .notInitialized
  | .aeDestroy _ => .ok .uninitialized
  | .scInit _ | .scXor _ | .scDestroy _ | .derive => .ok st

/-- The state words after n counter increments (R103). -/
def incTimes : Nat → Vector Word 16 → Vector Word 16
  | 0, w     => w
  | n + 1, w => incTimes n (incCounter w)

/-- Byte m of the keystream that starts with a fresh block at state words w: byte m mod 64 of block floor(m / 64)
(R111). -/
def keystreamAt (w : Vector Word 16) (m : Nat) : Byte :=
  byteAt (keystreamBlock (incTimes (m / 64) w)).toList (m % 64)

/-- The unreduced polynomial of R239 over 16-byte chunks. -/
def polySum (r : Nat) (chunks : List (List Byte)) : Nat :=
  chunks.foldl (fun acc c => (acc + (leNat c + 2 ^ 128)) * r) 0

/-- The message part of the MAC input of a slot in state Aad or a data mode, after FINALIZE's paddings (R159, R190). -/
def macPadding (x : AeSlot) : List Byte :=
  (if x.st = .aad then zeros (pad16 x.aadCnt.toNat) else []) ++ zeros (pad16 x.ctCnt.toNat)

end Sys2Proof.Machine
end

