-- ==== Sys2Proof/Certificates/Slice0/Obligations.lean ====
section
/-! DEFINITION. The statements for the provers, in the order of OBLIGATIONS.json. Each docstring says which rule of spec/ it formalises. -/

open Sys2Proof Sys2Proof.Machine

/-! ### Encoding -/

/-- R80, R84, R91: decoding an encoded well-formed command gives it back. -/
def Obligations.DecodeOfEncode : Prop :=
  ∀ (nSc nAe : Nat) (i : Instr), wellFormed nSc nAe i = true → decode nSc nAe (encode i) = .cmd i

/-- R84, R91: each word has one meaning, and a decoded command is well formed. -/
def Obligations.EncodeOfDecode : Prop :=
  ∀ (nSc nAe : Nat) (w : Word) (i : Instr),
    decode nSc nAe w = .cmd i → encode i = w ∧ wellFormed nSc nAe i = true

/-- R88: which words are reserved, and that issuing one completes with IllegalCommand and RES = 0 and changes nothing
else. -/
def Obligations.ReservedWordsAreIllegal : Prop :=
  ∀ (w : Word) (s : State),
    (decode s.sc.length s.ae.length w = .illegal ↔
      rsvOf w ≠ 0 ∨ opcOf w = 0x00 ∨ (0x05 ≤ (opcOf w).toNat ∧ (opcOf w).toNat ≤ 0x0F) ∨ 0x18 ≤ (opcOf w).toNat
        ∨ (opcOf w = 0x04 ∧ slotOf w ≠ 0))
    ∧ (decode s.sc.length s.ae.length w = .illegal →
        issue w s = .next { s with code := 0x10, busy := false, res := 0 })

/-- R82: the slot SLOT names, by opcode; a SLOT at or above the bound fails with InvalidSlot and touches no slot; DERIVE
names no slot, and with a nonzero SLOT it is a reserved encoding. -/
def Obligations.SlotFieldNamesTheSlot : Prop :=
  ∀ (w : Word) (s : State), rsvOf w = 0 →
    (0x01 ≤ (opcOf w).toNat → (opcOf w).toNat ≤ 0x03 →
      if (slotOf w).toNat < s.sc.length then
        ∃ i, decode s.sc.length s.ae.length w = .cmd i ∧ slotNamed i = .sc (slotOf w).toNat
      else issue w s = .next { s with code := 0x11, busy := false, res := 0 })
    ∧ (0x10 ≤ (opcOf w).toNat → (opcOf w).toNat ≤ 0x17 →
      if (slotOf w).toNat < s.ae.length then
        ∃ i, decode s.sc.length s.ae.length w = .cmd i ∧ slotNamed i = .ae (slotOf w).toNat
      else issue w s = .next { s with code := 0x11, busy := false, res := 0 })
    ∧ (opcOf w = 0x04 →
      if slotOf w = 0 then decode s.sc.length s.ae.length w = .cmd .derive ∧ slotNamed .derive = .none
      else decode s.sc.length s.ae.length w = .illegal
        ∧ issue w s = .next { s with code := 0x10, busy := false, res := 0 })

/-- R94 and the table of 95_test_vectors.md section 2.1: words written out from the encoding. -/
def Obligations.SampleWordsDecode : Prop :=
  decode 1 1 0x00000001 = .cmd (.scInit 0) ∧ decode 1 1 0x00000002 = .cmd (.scXor 0)
    ∧ decode 1 1 0x00000004 = .cmd .derive ∧ decode 1 1 0x00000010 = .cmd (.aeInit 0)
    ∧ decode 1 3 0x00000212 = .cmd (.aeEncrypt 2) ∧ decode 1 2 0x00000116 = .cmd (.aeVerify 1)
    ∧ decode 1 256 0x0000FF17 = .cmd (.aeDestroy 255) ∧ decode 2 1 0x00000101 = .cmd (.scInit 1)
    ∧ decode 1 1 0x00000101 = .badSlot ∧ decode 1 1 0x00000000 = .illegal ∧ decode 1 1 0x00000018 = .illegal
    ∧ decode 1 1 0x00010010 = .illegal ∧ decode 1 1 0x00000104 = .illegal

/-- R23, R73, R91: a step whose next host action writes a command word runs the decoded command, with BUSY set while it
runs and the action taken off the host's list; so does a step after withFetchWord. -/
def Obligations.StepRunsDecodedCommand : Prop :=
  ∀ (s : State) (acts : List HostAction) (w : Word) (i : Instr),
    decode s.sc.length s.ae.length w = .cmd i →
      (s.host = cmdWrite w :: acts → step s = exec i { s with host := acts, busy := true })
      ∧ step (s.withFetchWord 32 w.toNat) = exec i { s with busy := true }

/-! ### The keystream generator -/

/-- R100: the words a quarter-round writes, for four distinct indices, with the rotations as left rotations; every
other word is unchanged. -/
def Obligations.QuarterRoundWords : Prop :=
  ∀ (x : Vector Word 16) (a b c d : Fin 16), a ≠ b → a ≠ c → a ≠ d → b ≠ c → b ≠ d → c ≠ d →
    let a1 := x[a] + x[b]
    let d1 := (x[d] ^^^ a1).rotateLeft 16
    let c1 := x[c] + d1
    let b1 := (x[b] ^^^ c1).rotateLeft 12
    let a2 := a1 + b1
    let d2 := (d1 ^^^ a2).rotateLeft 8
    let c2 := c1 + d2
    let b2 := (b1 ^^^ c2).rotateLeft 7
    let y := quarterRound x a b c d
    y[a] = a2 ∧ y[b] = b2 ∧ y[c] = c2 ∧ y[d] = d2 ∧
      ∀ j : Fin 16, j ≠ a → j ≠ b → j ≠ c → j ≠ d → y[j] = x[j]

/-- R101: quarter-rounds on disjoint words commute, so the order inside a group does not change the result. -/
def Obligations.QuarterRoundsOnDisjointWordsCommute : Prop :=
  ∀ (x : Vector Word 16) (a b c d a' b' c' d' : Fin 16), [a, b, c, d, a', b', c', d'].Nodup →
    quarterRound (quarterRound x a b c d) a' b' c' d' = quarterRound (quarterRound x a' b' c' d') a b c d

/-- R103: the counter increment, its one carry, and that nothing else changes (no carry into W[14]). -/
def Obligations.CounterIncrementCarriesOnce : Prop :=
  ∀ (w : Vector Word 16),
    (incCounter w)[12] = w[12] + 1
    ∧ (incCounter w)[13] = (if w[12] = 0xFFFFFFFF then w[13] + 1 else w[13])
    ∧ ∀ j : Fin 16, j ≠ 12 → j ≠ 13 → (incCounter w)[j] = w[j]

/-- R111, R102, R103: from CUR = 63 the output is the input XORed with one continuous keystream, byte m coming from
block floor(m / 64) at the counter words after that many increments; a block is generated only when a byte needs it. -/
def Obligations.KeystreamIsTheBlockSequence : Prop :=
  ∀ (c : Cipher) (bs : List Byte),
    (ksXor c 63 bs).2.length = bs.length
    ∧ (∀ (m : Nat) (b : Byte), bs[m]? = some b → (ksXor c 63 bs).2[m]? = some (b ^^^ keystreamAt c.w m))
    ∧ (ksXor c 63 bs).1.w = incTimes ((bs.length + 63) / 64) c.w
    ∧ (bs ≠ [] → (ksXor c 63 bs).1.ks = keystreamBlock (incTimes ((bs.length - 1) / 64) c.w))
    ∧ ∃ j : Fin 64, (ksXor c 63 bs).1.cur = .idx j ∧ j.val = (bs.length + 63) % 64

/-- R112: the keystream involution and the incremental equivalence. -/
def Obligations.KeystreamInvolutionAndSplit : Prop :=
  ∀ (c : Cipher) (i : Fin 64) (s t : List Byte),
    (ksXor c i (ksXor c i s).2).2 = s
    ∧ ∃ j : Fin 64, (ksXor c i s).1.cur = .idx j
      ∧ (ksXor c i (s ++ t)).2 = (ksXor c i s).2 ++ (ksXor (ksXor c i s).1 j t).2
      ∧ (ksXor c i (s ++ t)).1 = (ksXor (ksXor c i s).1 j t).1

/-- R109: the extended-nonce reduction, as a re-run of init with the derived key and the remaining nonce, the counter
passing through. -/
def Obligations.ExtendedNonceEquivalence : Prop :=
  ∀ (key nonce : List Byte) (ctr : Nat),
    (24 ≤ nonce.length →
      cipherInit key nonce ctr = cipherInit (deriveCore key (nonce.take 16)) (nonce.drop 16) ctr)
    ∧ (nonce.length < 24 → reduce key nonce = (key, nonce))

/-- R107, R109: the nonce left by the reduction is the last EFFLEN bytes, and a reduced key has 32 bytes. -/
def Obligations.ReducedNonceHasLayoutLength : Prop :=
  ∀ (key nonce : List Byte), nonceOk nonce.length = true →
    (reduce key nonce).2 = nonce.drop (nonce.length - effLen nonce.length)
    ∧ (reduce key nonce).2.length = effLen nonce.length
    ∧ (effLen nonce.length = 8 ∨ effLen nonce.length = 12 ∨ effLen nonce.length = 16)
    ∧ (24 ≤ nonce.length → (reduce key nonce).1.length = 32)

/-- R107: NONCE_OK's recursion, its closed form and EFFLEN's reduction. -/
def Obligations.NonceLengthRule : Prop :=
  (∀ n : Nat, nonceOk n = true ↔ (n = 8 ∨ n = 12 ∨ n = 16) ∨ (24 ≤ n ∧ nonceOk (n - 16) = true))
  ∧ (∀ n : Nat, nonceOk n = true ↔ 8 ≤ n ∧ (n % 16 = 0 ∨ n % 16 = 8 ∨ n % 16 = 12))
  ∧ (List.range 65).filter nonceOk = [8, 12, 16, 24, 28, 32, 40, 44, 48, 56, 60, 64]
  ∧ ∀ n : Nat, nonceOk n = true → effLen n = (if n < 24 then n else effLen (n - 16))

/-- R105, R106, R108, R110: the state words CIPHER_INIT sets for both key lengths and the three layouts, the zero
keystream buffer and CUR = 63. -/
def Obligations.CipherInitWords : Prop :=
  ∀ (key nonce : List Byte) (ctr : Nat),
    key.length = 16 ∨ key.length = 32 → nonce.length = 8 ∨ nonce.length = 12 ∨ nonce.length = 16 →
    (cipherInit key nonce ctr).w.toList =
        (if key.length = 32 then [0x61707865, 0x3320646e, 0x79622d32, 0x6b206574]
          else [0x61707865, 0x3120646e, 0x79622d36, 0x6b206574])
        ++ (List.range 8).map (fun k => le32 key ((4 * k) % key.length))
        ++ (if nonce.length = 8 then [BitVec.ofNat 32 ctr, BitVec.ofNat 32 (ctr / 2 ^ 32), le32 nonce 0, le32 nonce 4]
          else if nonce.length = 12 then [BitVec.ofNat 32 ctr, le32 nonce 0, le32 nonce 4, le32 nonce 8]
          else [le32 nonce 0, le32 nonce 4, le32 nonce 8, le32 nonce 12])
    ∧ (cipherInit key nonce ctr).ks.toList = zeros 64
    ∧ (cipherInit key nonce ctr).cur = .idx 63

/-! ### Padding, tag comparison, MAC, memory -/

/-- R151: PAD16, its range, its purpose and its examples. -/
def Obligations.PaddingLength : Prop :=
  (∀ n : Nat, pad16 n = (16 - n % 16) % 16 ∧ pad16 n ≤ 15 ∧ (n + pad16 n) % 16 = 0 ∧ (n % 16 = 0 → pad16 n = 0))
  ∧ pad16 0 = 0 ∧ pad16 1 = 15 ∧ pad16 12 = 4 ∧ pad16 16 = 0 ∧ pad16 114 = 14

/-- R192: CT_EQ16 is 1 exactly when the two strings agree in every byte, else 0. -/
def Obligations.TagComparatorIsEquality : Prop :=
  ∀ t e : Vector Byte 16,
    (ctEq16 t e = 1 ↔ ∀ k : Fin 16, t[k] = e[k]) ∧ (ctEq16 t e = 0 ↔ ∃ k : Fin 16, t[k] ≠ e[k])

/-- R239: Poly1305 over whole 16-byte chunks is the polynomial of R239, reduced once at the end. -/
def Obligations.PolyTagIsThePolynomial : Prop :=
  ∀ (k : Vector Byte 32) (chunks : List (List Byte)), (∀ c ∈ chunks, c.length = 16) →
    leNat (poly1305 k chunks.flatten).toList =
      (polySum (leNat (k.toList.take 16) &&& 0x0ffffffc0ffffffc0ffffffc0fffffff) chunks % (2 ^ 130 - 5)
        + leNat (k.toList.drop 16)) % 2 ^ 128

/-- R63, R64: MemRead returns the bytes in address order; MemWrite stores byte i at addr + i and changes no other
byte. -/
def Obligations.MemoryReadsWhatWasWritten : Prop :=
  ∀ (m : List Host.Cell) (a n : Nat) (bs : List Byte),
    (Memory.readBytes m a n).length = n
    ∧ (∀ k : Nat, k < n → (Memory.readBytes m a n)[k]? = some (Memory.read m (a + k)))
    ∧ (∀ (k : Nat) (b : Byte), bs[k]? = some b → Memory.read (Memory.writeBytes m a bs) (a + k) = b)
    ∧ (∀ b : Nat, b < a ∨ a + bs.length ≤ b → Memory.read (Memory.writeBytes m a bs) b = Memory.read m b)

/-- R24: the STATUS word: CODE in bits 7:0, BUSY in bit 8, bits 31:9 zero. -/
def Obligations.StatusWordFields : Prop :=
  ∀ s : State, (statusWord s).extractLsb' 0 8 = s.code ∧ (statusWord s).getLsbD 8 = s.busy
    ∧ (statusWord s).extractLsb' 9 23 = 0

/-! ### Each command completes: its result -/

/-- R113: SC_INIT completes exactly under its checks, with the initialized cipher in the named slot and nothing else
changed but STATUS and RES. -/
def Obligations.ScInitCompletes : Prop :=
  ∀ (slot : BitVec 8) (s : State), slot.toNat < s.sc.length →
    argNat s 1 = 16 ∨ argNat s 1 = 32 → nonceOk (argNat s 3) = true →
    ctrOperand s < 2 ^ 53 → (effLen (argNat s 3) = 12 → ctrOperand s < 2 ^ 32) →
    argNat s 0 + argNat s 1 ≤ s.par.dmemBytes → argNat s 2 + argNat s 3 ≤ s.par.dmemBytes →
    exec (.scInit slot) s = .next { s with
      code := 0, busy := false, res := 0
      sc := s.sc.set slot.toNat (cipherInit (Memory.readBytes s.mem (argNat s 0) (argNat s 1))
        (Memory.readBytes s.mem (argNat s 2) (argNat s 3)) (argNat s 5 * 2 ^ 32 + argNat s 4)) }

/-- R114, R111: SC_XOR on an initialized slot with its region inside DMEM transforms the region in place. -/
def Obligations.ScXorCompletes : Prop :=
  ∀ (slot : BitVec 8) (s : State) (c : Cipher) (i : Fin 64), s.sc[slot.toNat]? = some c → c.cur = .idx i →
    argNat s 0 + argNat s 1 ≤ s.par.dmemBytes →
    exec (.scXor slot) s = .next { s with
      code := 0, busy := false, res := 0
      sc := s.sc.set slot.toNat (ksXor c i (Memory.readBytes s.mem (argNat s 0) (argNat s 1))).1
      mem := Memory.writeBytes s.mem (argNat s 0)
        (ksXor c i (Memory.readBytes s.mem (argNat s 0) (argNat s 1))).2 }

/-- R115, R158, R36: SC_DESTROY and AE_DESTROY succeed in every state of an existing slot and zeroize it. -/
def Obligations.DestroyCompletes : Prop :=
  ∀ (slot : BitVec 8) (s : State),
    (slot.toNat < s.sc.length → exec (.scDestroy slot) s = .next { s with
      code := 0, busy := false, res := 0
      sc := s.sc.set slot.toNat
        { w := Vector.replicate 16 0, ks := Vector.replicate 64 0, cur := .uninit } })
    ∧ (slot.toNat < s.ae.length → exec (.aeDestroy slot) s = .next { s with
      code := 0, busy := false, res := 0
      ae := s.ae.set slot.toNat
        { st := .uninitialized, aadCnt := 0, ctCnt := 0, macKey := Vector.replicate 64 0
          c := { w := Vector.replicate 16 0, ks := Vector.replicate 64 0, cur := .uninit }
          mac := { k := Vector.replicate 32 0, msg := [], act := false } } })

/-- R116, R104: DERIVE writes the 32-byte sub-key to its output region, computed from the bytes its inputs held
before (R71). -/
def Obligations.DeriveCompletes : Prop :=
  ∀ s : State, argNat s 1 = 16 ∨ argNat s 1 = 32 →
    argNat s 0 + argNat s 1 ≤ s.par.dmemBytes → argNat s 2 + 16 ≤ s.par.dmemBytes →
    argNat s 3 + 32 ≤ s.par.dmemBytes →
    exec .derive s = .next { s with
      code := 0, busy := false, res := 0
      mem := Memory.writeBytes s.mem (argNat s 3)
        (deriveCore (Memory.readBytes s.mem (argNat s 0) (argNat s 1)) (Memory.readBytes s.mem (argNat s 2) 16)) }
    ∧ (deriveCore (Memory.readBytes s.mem (argNat s 0) (argNat s 1))
        (Memory.readBytes s.mem (argNat s 2) 16)).length = 32

/-- R152, R102, R238: AE_INIT in every state of an existing slot leaves it in Aad with its counters 0, the MAC keyed by
the first 32 bytes of keystream block 0 at counter 0, and the private cipher 64 keystream bytes on. -/
def Obligations.AeInitCompletes : Prop :=
  ∀ (slot : BitVec 8) (s : State), slot.toNat < s.ae.length →
    argNat s 1 = 16 ∨ argNat s 1 = 32 → nonceOk (argNat s 3) = true →
    argNat s 0 + argNat s 1 ≤ s.par.dmemBytes → argNat s 2 + argNat s 3 ≤ s.par.dmemBytes →
    let w0 := (cipherInit (Memory.readBytes s.mem (argNat s 0) (argNat s 1))
      (Memory.readBytes s.mem (argNat s 2) (argNat s 3)) 0).w
    ∃ k : Vector Byte 32, k.toList = (keystreamBlock w0).toList.take 32 ∧
      exec (.aeInit slot) s = .next { s with
        code := 0, busy := false, res := 0
        ae := s.ae.set slot.toNat
          { st := .aad, aadCnt := 0, ctCnt := 0, macKey := keystreamBlock w0
            c := { w := incCounter w0, ks := keystreamBlock w0, cur := .idx 63 }
            mac := { k := k, msg := [], act := true } } }

/-- R153: AE_AAD in state Aad appends the data to the MAC stream, unpadded, and counts it. -/
def Obligations.AeAadCompletes : Prop :=
  ∀ (slot : BitVec 8) (s : State) (x : AeSlot), s.ae[slot.toNat]? = some x → x.st = .aad →
    argNat s 0 + argNat s 1 ≤ s.par.dmemBytes → x.aadCnt.toNat + argNat s 1 < 2 ^ 53 →
    ∃ cnt : BitVec 64, cnt.toNat = x.aadCnt.toNat + argNat s 1 ∧
      exec (.aeAad slot) s = .next { s with
        code := 0, busy := false, res := 0
        ae := s.ae.set slot.toNat { x with
          aadCnt := cnt
          mac := { x.mac with msg := x.mac.msg ++ Memory.readBytes s.mem (argNat s 0) (argNat s 1) } } }

/-- R155, R154: AE_ENCRYPT in Aad or Encrypt pads the AAD on the first data command, locks the mode, transforms the
region in place and absorbs the bytes it wrote. -/
def Obligations.AeEncryptCompletes : Prop :=
  ∀ (slot : BitVec 8) (s : State) (x : AeSlot) (i : Fin 64), s.ae[slot.toNat]? = some x →
    x.st = .aad ∨ x.st = .encrypt → x.c.cur = .idx i →
    argNat s 0 + argNat s 1 ≤ s.par.dmemBytes → x.ctCnt.toNat + argNat s 1 < 2 ^ 53 →
    let r := ksXor x.c i (Memory.readBytes s.mem (argNat s 0) (argNat s 1))
    ∃ cnt : BitVec 64, cnt.toNat = x.ctCnt.toNat + argNat s 1 ∧
      exec (.aeEncrypt slot) s = .next { s with
        code := 0, busy := false, res := 0
        mem := Memory.writeBytes s.mem (argNat s 0) r.2
        ae := s.ae.set slot.toNat { x with
          st := .encrypt, ctCnt := cnt, c := r.1
          mac := { x.mac with
            msg := x.mac.msg ++ (if x.st = .aad then zeros (pad16 x.aadCnt.toNat) else []) ++ r.2 } } }

/-- R156, R154: AE_DECRYPT in Aad or Decrypt absorbs the bytes the region held and then transforms it in place. -/
def Obligations.AeDecryptCompletes : Prop :=
  ∀ (slot : BitVec 8) (s : State) (x : AeSlot) (i : Fin 64), s.ae[slot.toNat]? = some x →
    x.st = .aad ∨ x.st = .decrypt → x.c.cur = .idx i →
    argNat s 0 + argNat s 1 ≤ s.par.dmemBytes → x.ctCnt.toNat + argNat s 1 < 2 ^ 53 →
    let ct := Memory.readBytes s.mem (argNat s 0) (argNat s 1)
    ∃ cnt : BitVec 64, cnt.toNat = x.ctCnt.toNat + argNat s 1 ∧
      exec (.aeDecrypt slot) s = .next { s with
        code := 0, busy := false, res := 0
        mem := Memory.writeBytes s.mem (argNat s 0) (ksXor x.c i ct).2
        ae := s.ae.set slot.toNat { x with
          st := .decrypt, ctCnt := cnt, c := (ksXor x.c i ct).1
          mac := { x.mac with
            msg := x.mac.msg ++ (if x.st = .aad then zeros (pad16 x.aadCnt.toNat) else []) ++ ct } } }

/-- R157, R154: AE_AUTH in Aad or Auth absorbs the data, counts it as ciphertext, and leaves DMEM and the private
cipher alone. -/
def Obligations.AeAuthCompletes : Prop :=
  ∀ (slot : BitVec 8) (s : State) (x : AeSlot), s.ae[slot.toNat]? = some x →
    x.st = .aad ∨ x.st = .auth →
    argNat s 0 + argNat s 1 ≤ s.par.dmemBytes → x.ctCnt.toNat + argNat s 1 < 2 ^ 53 →
    ∃ cnt : BitVec 64, cnt.toNat = x.ctCnt.toNat + argNat s 1 ∧
      exec (.aeAuth slot) s = .next { s with
        code := 0, busy := false, res := 0
        ae := s.ae.set slot.toNat { x with
          st := .auth, ctCnt := cnt
          mac := { x.mac with
            msg := x.mac.msg ++ (if x.st = .aad then zeros (pad16 x.aadCnt.toNat) else [])
              ++ Memory.readBytes s.mem (argNat s 0) (argNat s 1) } } }

/-- R191, R190, R238: AE_FINAL on a Live slot writes the tag of the padded MAC stream and its length trailer, and
zeroizes the slot. -/
def Obligations.AeFinalCompletes : Prop :=
  ∀ (slot : BitVec 8) (s : State) (x : AeSlot), s.ae[slot.toNat]? = some x → live x.st = true →
    argNat s 0 + 16 ≤ s.par.dmemBytes →
    exec (.aeFinal slot) s = .next { s with
      code := 0, busy := false, res := 0
      ae := s.ae.set slot.toNat AeSlot.zero
      mem := Memory.writeBytes s.mem (argNat s 0)
        (macFn s.par.mac x.mac.k (x.mac.msg ++ macPadding x
          ++ (bytes64 x.aadCnt.toNat ++ bytes64 x.ctCnt.toNat))).toList }

/-- R193, R192, R195: AE_VERIFY on a Live slot sets RES to 1 when the 16 expected bytes are the tag and to 0 otherwise,
zeroizes the slot, and writes the tag nowhere. -/
def Obligations.AeVerifyCompletes : Prop :=
  ∀ (slot : BitVec 8) (s : State) (x : AeSlot), s.ae[slot.toNat]? = some x → argNat s 1 = 16 →
    live x.st = true → argNat s 0 + 16 ≤ s.par.dmemBytes →
    exec (.aeVerify slot) s = .next { s with
      code := 0, busy := false
      res := if (macFn s.par.mac x.mac.k (x.mac.msg ++ macPadding x
          ++ (bytes64 x.aadCnt.toNat ++ bytes64 x.ctCnt.toNat))).toList = Memory.readBytes s.mem (argNat s 0) 16
        then 1 else 0
      ae := s.ae.set slot.toNat AeSlot.zero }

/-- The one stop of a command, in states R35 excludes (log entry 10): AE_ENCRYPT and AE_DECRYPT on a Live slot whose
private cipher is not initialized, where R111 defines no keystream. -/
def Obligations.LiveSlotWithoutCipherStops : Prop :=
  ∀ (slot : BitVec 8) (s : State) (x : AeSlot), s.ae[slot.toNat]? = some x → x.c.cur = .uninit →
    argNat s 0 + argNat s 1 ≤ s.par.dmemBytes → x.ctCnt.toNat + argNat s 1 < 2 ^ 53 →
    (x.st = .aad ∨ x.st = .encrypt → exec (.aeEncrypt slot) s = .fault .liveSlotWithoutCipher)
    ∧ (x.st = .aad ∨ x.st = .decrypt → exec (.aeDecrypt slot) s = .fault .liveSlotWithoutCipher)

/-! ### Failures and the state machine -/

/-- R223: the code reported is the first failure that holds in the global order, OK if none holds, for every word
issued; and a failing command leaves DMEM and A0..A5 as they were and every slot as it was or zeroized. -/
def Obligations.FirstFailureIsReported : Prop :=
  ∀ (w : Word) (s t : State), issue w s = .next t →
    (decode s.sc.length s.ae.length w = .illegal → t.code = 0x10)
    ∧ (decode s.sc.length s.ae.length w = .badSlot → t.code = 0x11)
    ∧ (∀ i, decode s.sc.length s.ae.length w = .cmd i → t.code = (expectedCode i s).byte)
    ∧ (t.code ≠ 0 → t.mem = s.mem ∧ t.args = s.args
      ∧ (∀ n : Nat, t.sc[n]? = s.sc[n]? ∨ t.sc[n]? = some Cipher.zero)
      ∧ ∀ n : Nat, t.ae[n]? = s.ae[n]? ∨ t.ae[n]? = some AeSlot.zero)

/-- R222: the codes each command can report besides OK. -/
def Obligations.CodesOfEachCommand : Prop :=
  ∀ (i : Instr) (s t : State), exec i s = .next t → t.code = 0 ∨ ∃ c ∈ codesOf i, t.code = c.byte

/-- R224, R225: what a failure does: the named slot zeroized (unless the code is InvalidSlot), RES = 0, BUSY = 0, CODE
written, and nothing else. -/
def Obligations.FailureZeroizesTheNamedSlot : Prop :=
  ∀ (i : Instr) (s t : State), exec i s = .next t → t.code ≠ 0 →
    t = { s with
      code := t.code, busy := false, res := 0
      sc := match slotNamed i with
        | .sc n => if t.code = 0x11 then s.sc else s.sc.set n Cipher.zero
        | _ => s.sc
      ae := match slotNamed i with
        | .ae n => if t.code = 0x11 then s.ae else s.ae.set n AeSlot.zero
        | _ => s.ae }

/-- R220, R221: from a state that meets the invariant every command word completes, with a legal status code and
BUSY = 0. -/
def Obligations.EveryCommandWordCompletes : Prop :=
  ∀ (w : Word) (s : State), s.Inv →
    ∃ t, issue w s = .next t ∧ t.busy = false ∧ legalCode t.code ∧ (t.res = 0 ∨ t.res = 1)

/-- R150: the AEAD transition table: the state after a success, the code where the table gives a failure (AE_VERIFY
may report InvalidTagSize first, R223), and Uninitialized after any failure. -/
def Obligations.AeadTransitionTable : Prop :=
  ∀ (i : Instr) (a : BitVec 8) (s t : State) (x : AeSlot),
    aeSlotOf i = some a → s.ae[a.toNat]? = some x → exec i s = .next t →
    (∀ st', aeTable i x.st = .ok st' → t.code = 0 → (t.ae[a.toNat]?).map (·.st) = some st')
    ∧ (∀ c, aeTable i x.st = .error c → t.code = c.byte ∨ (i = .aeVerify a ∧ t.code = 0x05))
    ∧ (t.code ≠ 0 → (t.ae[a.toNat]?).map (·.st) = some .uninitialized)

/-- R159: the MAC input of a context, for a slot whose MAC stream is what R35 says it is. -/
def Obligations.MacInputFraming : Prop :=
  ∀ (f : MacFn) (x : AeSlot) (aad ct : List Byte),
    x.aadCnt.toNat = aad.length → x.ctCnt.toNat = ct.length →
    (x.st = .aad ∧ x.mac.msg = aad ∧ ct = []) ∨
      ((x.st = .encrypt ∨ x.st = .decrypt ∨ x.st = .auth) ∧ x.mac.msg = aad ++ zeros (pad16 aad.length) ++ ct) →
    finalizeTag f x = macFn f x.mac.k
      (aad ++ zeros (pad16 aad.length) ++ ct ++ zeros (pad16 ct.length) ++ bytes64 aad.length ++ bytes64 ct.length)

/-! ### Frames and isolation -/

/-- R22, R25, R39: every command leaves A0..A5, the parameters and the host's side unchanged, leaves BUSY = 0, and
writes RES = 0 unless it is an AE_VERIFY that succeeded. -/
def Obligations.RegisterFrame : Prop :=
  ∀ (i : Instr) (s t : State), exec i s = .next t →
    t.args = s.args ∧ t.par = s.par ∧ t.draws = s.draws ∧ t.host = s.host ∧ t.hostData = s.hostData
    ∧ t.report = s.report ∧ t.busy = false
    ∧ ((∀ a, i ≠ .aeVerify a) → t.res = 0) ∧ (t.code ≠ 0 → t.res = 0)

/-- R26, R30, R39: a command writes no slot but the one it names; SC commands write no AE slot, AE commands no SC slot,
DERIVE no slot. -/
def Obligations.SlotFrame : Prop :=
  ∀ (i : Instr) (s t : State), exec i s = .next t →
    t.sc.length = s.sc.length ∧ t.ae.length = s.ae.length
    ∧ (∀ n, slotNamed i ≠ .sc n → t.sc[n]? = s.sc[n]?)
    ∧ (∀ n, slotNamed i ≠ .ae n → t.ae[n]? = s.ae[n]?)

/-- R39, R64: SC_XOR, AE_ENCRYPT and AE_DECRYPT store only in their buffer, DERIVE only in its 32-byte output, AE_FINAL
only in its 16-byte tag; every other command stores nothing. -/
def Obligations.MemoryFrame : Prop :=
  ∀ (i : Instr) (s t : State), exec i s = .next t →
    match i with
    | .scXor _ | .aeEncrypt _ | .aeDecrypt _ =>
      ∀ b, b < argNat s 0 ∨ argNat s 0 + argNat s 1 ≤ b → Memory.read t.mem b = Memory.read s.mem b
    | .derive => ∀ b, b < argNat s 3 ∨ argNat s 3 + 32 ≤ b → Memory.read t.mem b = Memory.read s.mem b
    | .aeFinal _ => ∀ b, b < argNat s 0 ∨ argNat s 0 + 16 ≤ b → Memory.read t.mem b = Memory.read s.mem b
    | .scInit _ | .scDestroy _ | .aeInit _ | .aeAad _ | .aeAuth _ | .aeVerify _ | .aeDestroy _ =>
      ∀ b, Memory.read t.mem b = Memory.read s.mem b

/-- R232, R5, R39: two states that agree on A0..A5, DMEM, the parameters, the slot counts and the slot a command names
give the same code, RES, DMEM and named slot, whatever the other slots hold. -/
def Obligations.SlotsShareNothing : Prop :=
  ∀ (i : Instr) (s u t : State),
    s.args = u.args → s.mem = u.mem → s.par = u.par → s.sc.length = u.sc.length → s.ae.length = u.ae.length →
    (∀ n, slotNamed i = .sc n → s.sc[n]? = u.sc[n]?) → (∀ n, slotNamed i = .ae n → s.ae[n]? = u.ae[n]?) →
    exec i s = .next t →
    ∃ v, exec i u = .next v ∧ v.code = t.code ∧ v.res = t.res ∧ v.mem = t.mem
      ∧ (∀ n, slotNamed i = .sc n → v.sc[n]? = t.sc[n]?) ∧ (∀ n, slotNamed i = .ae n → v.ae[n]? = t.ae[n]?)

/-- R38: what the host reads depends on no slot: a register or DMEM read returns the same value whatever the slots
hold. -/
def Obligations.HostReadsNoSlot : Prop :=
  ∀ (s : State) (sc' : List Cipher) (ae' : List AeSlot) (off : Nat) (width : AccessWidth) (a : Nat) (t : State),
    (regReadAct off width s = .next t →
      ∃ v, regReadAct off width { s with sc := sc', ae := ae' } = .next v ∧ v.hostData = t.hostData)
    ∧ (dmemReadAct a s = .next t →
      ∃ v, dmemReadAct a { s with sc := sc', ae := ae' } = .next v ∧ v.hostData = t.hostData)

/-- R160, R112: splitting data over two consecutive AE_AAD, AE_ENCRYPT, AE_DECRYPT or AE_AUTH commands leaves the same
slots and DMEM as one command over the concatenation. -/
def Obligations.SplitDataCommandsAreOne : Prop :=
  ∀ (i : Instr) (slot : BitVec 8) (s t u : State) (a n m : Word),
    i = .aeAad slot ∨ i = .aeEncrypt slot ∨ i = .aeDecrypt slot ∨ i = .aeAuth slot →
    a.toNat + n.toNat + m.toNat < 2 ^ 32 →
    exec i (setArg 0 a (setArg 1 n s)) = .next t → t.code = 0 →
    exec i (setArg 0 (a + n) (setArg 1 m t)) = .next u → u.code = 0 →
    ∃ v, exec i (setArg 0 a (setArg 1 (n + m) s)) = .next v ∧ v.code = 0 ∧ v.ae = u.ae ∧ v.sc = u.sc ∧ v.mem = u.mem

/-- R160's round trip: from one context, AE_DECRYPT of what AE_ENCRYPT wrote restores every byte of DMEM and leaves the
same counters, the same MAC stream and so the same tag. -/
def Obligations.DecryptUndoesEncrypt : Prop :=
  ∀ (slot : BitVec 8) (s t : State) (x : AeSlot), s.ae[slot.toNat]? = some x → x.st = .aad →
    exec (.aeEncrypt slot) s = .next t → t.code = 0 →
    ∃ (u : State) (y z : AeSlot), exec (.aeDecrypt slot) { t with ae := s.ae } = .next u ∧ u.code = 0
      ∧ (∀ b, Memory.read u.mem b = Memory.read s.mem b)
      ∧ t.ae[slot.toNat]? = some y ∧ u.ae[slot.toNat]? = some z
      ∧ z.mac = y.mac ∧ z.aadCnt = y.aadCnt ∧ z.ctCnt = y.ctCnt ∧ z.c = y.c
      ∧ finalizeTag s.par.mac z = finalizeTag s.par.mac y

/-! ### The host's side and reset -/

/-- R69, R76, R23 to R25: a register read by the host: the value at each offset, no other effect; a sub-word,
misaligned or out-of-space access has no move. -/
def Obligations.HostRegisterRead : Prop :=
  ∀ (s : State) (off : Nat) (width : AccessWidth) (acts : List HostAction), s.host = .regRead off width :: acts →
    (¬ (width = .word ∧ off % 4 = 0 ∧ off ≤ 0xFF) → step s = .fault .hostRegAccess)
    ∧ (width = .word → off % 4 = 0 → off ≤ 0xFF →
      step s = .next { s with
        host := acts
        hostData :=
          if off = 0x24 then statusWord s else if off = 0x28 then s.res
          else (s.args.toList[off / 4]?).getD 0 })

/-- R69, R76, R22: a register write by the host: an argument register takes the value, a write to CMD issues the
command, every other offset ignores it. -/
def Obligations.HostRegisterWrite : Prop :=
  ∀ (s : State) (off : Nat) (width : AccessWidth) (v : Word) (acts : List HostAction),
    s.host = .regWrite off width v :: acts →
    (¬ (width = .word ∧ off % 4 = 0 ∧ off ≤ 0xFF) → step s = .fault .hostRegAccess)
    ∧ (width = .word → off % 4 = 0 → off ≤ 0xFF →
      (off = 0x20 → step s = issue v { s with host := acts })
      ∧ (off ≠ 0x20 → ∃ args', step s = .next { s with host := acts, args := args' }
          ∧ args'.toList = s.args.toList.set (off / 4) v))

/-- R68: host DMEM accesses inside DMEM: a write is what a later read returns and changes no other byte; an access at
or above DMEM_BYTES has no move. -/
def Obligations.HostDmemPort : Prop :=
  ∀ (s : State) (a : Nat) (v : Byte) (acts : List HostAction),
    (s.host = .dmemRead a :: acts → a < s.par.dmemBytes →
      step s = .next { s with host := acts, hostData := (Memory.read s.mem a).zeroExtend 32 })
    ∧ (s.host = .dmemWrite a v :: acts → a < s.par.dmemBytes →
      ∃ m, step s = .next { s with host := acts, mem := m } ∧ Memory.read m a = v
        ∧ ∀ b, b ≠ a → Memory.read m b = Memory.read s.mem b)
    ∧ (s.host = .dmemRead a :: acts ∨ s.host = .dmemWrite a v :: acts → s.par.dmemBytes ≤ a →
      step s = .fault .hostDmemRange)

/-- R37, R250, R251: what power-on leaves: the registers 0, every slot zeroized, no DMEM byte written, the block idle. The
slot counts, DMEM size and MAC are R6's defaults (log entry 3); the empty host list is the model's choice (log
entry 5). -/
def Obligations.PowerOnState : Prop :=
  State.reset.args.toList = [0, 0, 0, 0, 0, 0] ∧ State.reset.code = 0 ∧ State.reset.busy = false
    ∧ State.reset.res = 0 ∧ statusWord State.reset = 0 ∧ State.reset.sc = [Cipher.zero]
    ∧ State.reset.ae = [AeSlot.zero] ∧ State.reset.mem = [] ∧ State.reset.par.dmemBytes = 65536
    ∧ State.reset.par.mac = .poly1305 ∧ State.reset.host = []

/-- R250, R37: the reset input between commands: registers 0, every slot zeroized, DMEM kept. -/
def Obligations.BlockResetKeepsDmem : Prop :=
  ∀ (s : State) (acts : List HostAction), s.host = .reset :: acts →
    ∃ t, step s = .next t ∧ t.mem = s.mem ∧ t.par = s.par ∧ (∀ k : Fin 6, t.args[k] = 0) ∧ t.code = 0
      ∧ t.busy = false ∧ t.res = 0
      ∧ t.sc.length = s.sc.length ∧ (∀ c ∈ t.sc, c = Cipher.zero)
      ∧ t.ae.length = s.ae.length ∧ (∀ x ∈ t.ae, x = AeSlot.zero)

/-- R250, R37: a step whose next host action is a CMD write cut off by reset: the block is reset as between commands, the
parameters and slot counts stay, and only bytes of the region the command would have written may differ; a word that names
no command, or whose command would have failed, changes no byte. That the failing command changes none is the model's
reading (log entry 17). -/
def Obligations.AbandonedCommandTouchesOnlyItsOutput : Prop :=
  ∀ (w : Word) (s : State) (acts : List HostAction), s.host = .cmdThenReset w :: acts →
    ∃ t, step s = .next t ∧ t.host = acts ∧ t.par = s.par ∧ (∀ k : Fin 6, t.args[k] = 0) ∧ t.code = 0
      ∧ t.busy = false ∧ t.res = 0
      ∧ t.sc.length = s.sc.length ∧ (∀ c ∈ t.sc, c = Cipher.zero)
      ∧ t.ae.length = s.ae.length ∧ (∀ x ∈ t.ae, x = AeSlot.zero)
      ∧ (∀ i, decode s.sc.length s.ae.length w = .cmd i →
          ∀ b, b < (outputRegion i s).1 ∨ (outputRegion i s).1 + (outputRegion i s).2 ≤ b →
            Memory.read t.mem b = Memory.read s.mem b)
      ∧ ((∀ i, decode s.sc.length s.ae.length w ≠ .cmd i) → t.mem = s.mem)
      ∧ (∀ i, decode s.sc.length s.ae.length w = .cmd i →
          (∃ u, exec i { s with host := acts } = .next u ∧ u.code ≠ 0) → t.mem = s.mem)

/-- R251, R259: after a reset SC_XOR and every AE command but AE_INIT and AE_DESTROY fails NotInitialized on an existing
slot (AE_VERIFY with a tag length other than 16 reports InvalidTagSize). -/
def Obligations.FreshSlotsAreNotInitialized : Prop :=
  ∀ (s : State) (slot : BitVec 8) (i : Instr),
    (s.sc[slot.toNat]? = some Cipher.zero →
      ∃ t, exec (.scXor slot) s = .next t ∧ t.code = 0x03)
    ∧ (s.ae[slot.toNat]? = some AeSlot.zero →
      i = .aeAad slot ∨ i = .aeEncrypt slot ∨ i = .aeDecrypt slot ∨ i = .aeAuth slot ∨ i = .aeFinal slot
        ∨ (i = .aeVerify slot ∧ argNat s 1 = 16) →
      ∃ t, exec i s = .next t ∧ t.code = 0x03)
    ∧ (s.ae[slot.toNat]? = some AeSlot.zero → argNat s 1 ≠ 16 →
      ∃ t, exec (.aeVerify slot) s = .next t ∧ t.code = 0x05)

/-- R70, R24: a STATUS read while the command issued next is in flight returns BUSY = 1 with the previous CODE and
changes nothing in the block. The action stands before the CMD write in the host's list (log entry 7), and has no move
where the list issues no command next (log entry 8). -/
def Obligations.BusyReadIsAStutter : Prop :=
  ∀ (s : State) (w : Word) (acts : List HostAction),
    (s.host = .pollBusy :: cmdWrite w :: acts →
      step s = .next { s with host := cmdWrite w :: acts, hostData := 0x100 ||| s.code.zeroExtend 32 })
    ∧ (s.host = .pollBusy :: acts → commandNext acts = false → step s = .fault .noCommandInFlight)

/-- R93: CHK goes on when CODE is OK and otherwise stops the host's sequence and reports the code. -/
def Obligations.CheckStopsOnFailure : Prop :=
  ∀ (s : State) (acts : List HostAction), s.host = .chk :: acts →
    (s.code = 0 → step s = .next { s with host := acts, hostData := statusWord s })
    ∧ (s.code ≠ 0 → step s = .next { s with host := [], hostData := statusWord s, report := .stopped s.code })

/-- R96, as the model's two host actions (log entry 14): the byte copy, and OPEN_SAFE's end, which clears the copy and
reports AuthenticationFailure exactly when MATCH is 0. -/
def Obligations.SafeMacroHostActions : Prop :=
  ∀ (s : State) (a b n : Nat) (acts : List HostAction),
    (s.host = .dmemCopy a b :: acts → a < s.par.dmemBytes → b < s.par.dmemBytes →
      ∃ m, step s = .next { s with host := acts, hostData := (Memory.read s.mem a).zeroExtend 32, mem := m }
        ∧ Memory.read m b = Memory.read s.mem a ∧ ∀ c, c ≠ b → Memory.read m c = Memory.read s.mem c)
    ∧ (s.host = .wipeUnlessMatch a n :: acts → s.res.getLsbD 0 = true →
      step s = .next { s with host := acts, hostData := s.res })
    ∧ (s.host = .wipeUnlessMatch a n :: acts → s.res.getLsbD 0 = false → a + n ≤ s.par.dmemBytes →
      ∃ m, step s = .next { s with host := acts, hostData := s.res, mem := m, report := .authenticationFailure }
        ∧ ∀ c, Memory.read m c = if a ≤ c ∧ c < a + n then 0 else Memory.read s.mem c)

/-- With no host action pending a step answers the same state: the model's choice (log entry 9). R251 says that the block
waits for a CMD write after reset, and gives the waiting no step. -/
def Obligations.IdleStepChangesNothing : Prop :=
  ∀ s : State, s.host = [] → step s = .next s

/-! ### The invariant -/

/-- R35, R37: the invariant holds after power-on reset. -/
def Obligations.InvariantAtReset : Prop := State.reset.Inv

/-- R35, with R24, R25, R29, R31, R32 and DMEM's canonical form: every step keeps the invariant. -/
def Obligations.StepKeepsInvariant : Prop :=
  ∀ s t : State, s.Inv → step s = .next t → t.Inv

/-- R220, R253: from a state that meets the invariant no step is refused, and the only stops are the two host accesses
R253 forbids (DMEM out of range, a register access that is no aligned word; log entry 8) and the model's own stop
noCommandInFlight, a BUSY read listed where no command is issued next (log entries 7 and 8). -/
def Obligations.OnlyTheHostCanGetStuck : Prop :=
  ∀ s : State, s.Inv →
    (∀ f, step s = .fault f → f = .hostDmemRange ∨ f = .hostRegAccess ∨ f = .noCommandInFlight)
    ∧ ∀ r, step s ≠ .refused r

/-! ### What the generator and the codec put in each byte -/

/-- R65, with R8, R101, R102, R104 and R105: the 20 rounds are ten times the eight quarter-rounds in R101's order; byte j
of LE32 is bits 8j+7..8j; byte 4i+j of a keystream block is byte j of post-round word i plus pre-round word i; byte 4k+j of
a sub-key is byte j of post-round word k (k below 4) or k + 8, with no add-back, the pre-round words being the constants,
the key words and the four nonce words; byte k of BYTES64(n) is floor(n / 256^k) mod 256. -/
def Obligations.ByteStringsAreLittleEndian : Prop :=
  (∀ x : Vector Word 16, rounds20 x =
    (List.replicate 10 ([(0, 4, 8, 12), (1, 5, 9, 13), (2, 6, 10, 14), (3, 7, 11, 15),
        (0, 5, 10, 15), (1, 6, 11, 12), (2, 7, 8, 13), (3, 4, 9, 14)] : List (Fin 16 × Fin 16 × Fin 16 × Fin 16))).flatten.foldl
      (fun y g => quarterRound y g.1 g.2.1 g.2.2.1 g.2.2.2) x)
  ∧ (∀ (s : List Byte) (i : Nat) (j : Fin 4), i + 4 ≤ s.length →
    s[i + j.val]? = some ((le32 s i).extractLsb' (8 * j.val) 8))
  ∧ (∀ (w : Vector Word 16) (i : Fin 16) (j : Fin 4),
    (keystreamBlock w).toList[4 * i.val + j.val]? = some (((rounds20 w)[i] + w[i]).extractLsb' (8 * j.val) 8))
  ∧ (∀ key n16 : List Byte, key.length = 16 ∨ key.length = 32 → n16.length = 16 →
    ∃ x : Vector Word 16,
      x.toList =
        (if key.length = 32 then [0x61707865, 0x3320646e, 0x79622d32, 0x6b206574]
          else [0x61707865, 0x3120646e, 0x79622d36, 0x6b206574])
        ++ (List.range 8).map (fun k => le32 key ((4 * k) % key.length))
        ++ [le32 n16 0, le32 n16 4, le32 n16 8, le32 n16 12]
      ∧ (deriveCore key n16).length = 32
      ∧ ∀ (k : Fin 8) (j : Fin 4), (deriveCore key n16)[4 * k.val + j.val]? =
          ((rounds20 x).toList[if k.val < 4 then k.val else k.val + 8]?).map fun v => v.extractLsb' (8 * j.val) 8)
  ∧ ∀ n : Nat, n < 2 ^ 53 → (bytes64 n).length = 8
    ∧ ∀ k : Fin 8, (bytes64 n)[k.val]? = some (BitVec.ofNat 8 (n / 256 ^ k.val))
end

