-- ==== Sys2Proof/Laws/ChaCha.lean ====
section
/-! SUPPORT. Lengths of the byte strings the generator and the codec produce, and the one-step equations of their loops. -/
namespace Sys2Proof.Machine

@[simp] theorem bytes32_length (w : Word) : (bytes32 w).length = 4 := rfl

@[simp] theorem bytes64_length (n : Nat) : (bytes64 n).length = 8 := rfl

@[simp] theorem ser_length (ws : List Word) : (ser ws).length = 4 * ws.length := by
  induction ws with
  | nil => rfl
  | cons w ws ih => simp [ser] at ih ⊢; omega

/-- Byte 4i + j of a serialization is byte j of word i. -/
theorem ser_getElem? (ws : List Word) (i : Nat) (j : Fin 4) :
    (ser ws)[4 * i + j.val]? = (ws[i]?).map fun v => v.extractLsb' (8 * j.val) 8 := by
  induction ws generalizing i with
  | nil => simp [ser]
  | cons w ws ih =>
    change (bytes32 w ++ ser ws)[4 * i + j.val]? = _
    cases i with
    | zero =>
      rw [List.getElem?_append_left (by simp)]
      fin_cases j <;> rfl
    | succ i =>
      rw [List.getElem?_append_right (by simp; omega), List.getElem?_cons_succ, ← ih, bytes32_length]
      congr 1
      omega

/-- On a list of exactly n entries the vector holds the list. -/
theorem toVec_toList {α : Type} {n : Nat} {fill : α} {l : List α} (h : l.length = n) : (toVec n fill l).toList = l := by
  simp [toVec, Vector.toList, ← h]

@[simp] theorem deriveCore_length (key n16 : List Byte) : (deriveCore key n16).length = 32 := by
  simp [deriveCore]

/-- A word of the working array after one write. -/
theorem putWord_get (x : Vector Word 16) (i j : Fin 16) (v : Word) : (putWord x i v)[j] = if i = j then v else x[j] := by
  simp [putWord, Vector.getElem_set, Fin.ext_iff]

theorem putWord_get_self (x : Vector Word 16) (i : Fin 16) (v : Word) : (putWord x i v)[i] = v := by
  rw [putWord_get, if_pos rfl]

theorem putWord_get_other (x : Vector Word 16) {i j : Fin 16} (v : Word) (h : i ≠ j) : (putWord x i v)[j] = x[j] := by
  rw [putWord_get, if_neg h]

/-- One ARX line on three distinct words: what it writes, and that every other word is unchanged. -/
theorem arxStep_get (x : Vector Word 16) {a b d : Fin 16} (n : Nat) (hd : a ≠ d) :
    (arxStep x a b d n)[a] = x[a] + x[b]
    ∧ (arxStep x a b d n)[d] = rotl32 (x[d] ^^^ (x[a] + x[b])) n
    ∧ ∀ j : Fin 16, j ≠ a → j ≠ d → (arxStep x a b d n)[j] = x[j] := by
  unfold arxStep
  refine ⟨?_, ?_, fun j ha hj => ?_⟩
  · rw [putWord_get_other _ _ hd.symm, putWord_get_self]
  · rw [putWord_get_self, putWord_get_other _ _ hd, putWord_get_self]
  · rw [putWord_get_other _ _ hj.symm, putWord_get_other _ _ ha.symm]

@[simp] theorem consts_length (n : Nat) : (consts n).length = 4 := by
  unfold consts; split <;> rfl

@[simp] theorem keyWords_length (key : List Byte) : (keyWords key).length = 8 := by
  unfold keyWords; split <;> rfl

@[simp] theorem layout_length (nonce : List Byte) (ctr : Nat) : (layout nonce ctr).length = 4 := by
  unfold layout; split <;> [rfl; (split <;> rfl)]

@[simp] theorem keystreamBlock_toList (w : Vector Word 16) :
    (keystreamBlock w).toList = ser (List.zipWith (fun a b => a + b) (rounds20 w).toList w.toList) := by
  apply toVec_toList
  simp

@[simp] theorem ksXor_nil (c : Cipher) (i : Fin 64) : ksXor c i [] = ({ c with cur := .idx i }, []) := rfl

theorem ksXor_cons (c : Cipher) (i : Fin 64) (b : Byte) (bs : List Byte) :
    ksXor c i (b :: bs) =
      ((ksXor (nextByte c i).1 (nextByte c i).2 bs).1,
        (b ^^^ (nextByte c i).1.ks.get (nextByte c i).2) :: (ksXor (nextByte c i).1 (nextByte c i).2 bs).2) := rfl

/-- KSXOR returns a byte string of its input's length. -/
@[simp] theorem ksXor_length (c : Cipher) (i : Fin 64) (bs : List Byte) : (ksXor c i bs).2.length = bs.length := by
  induction bs generalizing c i with
  | nil => rfl
  | cons b bs ih => simp [ksXor_cons, ih]

/-- KSXOR leaves an initialized cipher. -/
theorem ksXor_cur (c : Cipher) (i : Fin 64) (bs : List Byte) : ∃ j, (ksXor c i bs).1.cur = .idx j := by
  induction bs generalizing c i with
  | nil => exact ⟨i, rfl⟩
  | cons b bs ih => exact ih _ _

@[simp] theorem cipherInit_cur (key nonce : List Byte) (ctr : Nat) : (cipherInit key nonce ctr).cur = .idx 63 := rfl

@[simp] theorem leBytes_length (n v : Nat) : (leBytes n v).length = n := by
  induction n generalizing v with
  | zero => rfl
  | succ n ih => simp [leBytes, ih]

theorem zeros_length (n : Nat) : (zeros n).length = n := by simp [zeros]

end Sys2Proof.Machine
end

