-- ==== Sys2Proof/Laws/State.lean ====
section
/-! SUPPORT. One lemma per field per named update of State, so that no proof unfolds a record update. -/
namespace Sys2Proof.Machine

section setSc
variable (s : State) (i : Nat) (c : Cipher)
@[simp] theorem setSc_args : (setSc i c s).args = s.args := rfl
@[simp] theorem setSc_code : (setSc i c s).code = s.code := rfl
@[simp] theorem setSc_busy : (setSc i c s).busy = s.busy := rfl
@[simp] theorem setSc_res : (setSc i c s).res = s.res := rfl
@[simp] theorem setSc_sc : (setSc i c s).sc = s.sc.set i c := rfl
@[simp] theorem setSc_ae : (setSc i c s).ae = s.ae := rfl
@[simp] theorem setSc_mem : (setSc i c s).mem = s.mem := rfl
@[simp] theorem setSc_par : (setSc i c s).par = s.par := rfl
@[simp] theorem setSc_draws : (setSc i c s).draws = s.draws := rfl
@[simp] theorem setSc_host : (setSc i c s).host = s.host := rfl
@[simp] theorem setSc_hostData : (setSc i c s).hostData = s.hostData := rfl
@[simp] theorem setSc_report : (setSc i c s).report = s.report := rfl
end setSc

section setAe
variable (s : State) (i : Nat) (x : AeSlot)
@[simp] theorem setAe_args : (setAe i x s).args = s.args := rfl
@[simp] theorem setAe_code : (setAe i x s).code = s.code := rfl
@[simp] theorem setAe_busy : (setAe i x s).busy = s.busy := rfl
@[simp] theorem setAe_res : (setAe i x s).res = s.res := rfl
@[simp] theorem setAe_sc : (setAe i x s).sc = s.sc := rfl
@[simp] theorem setAe_ae : (setAe i x s).ae = s.ae.set i x := rfl
@[simp] theorem setAe_mem : (setAe i x s).mem = s.mem := rfl
@[simp] theorem setAe_par : (setAe i x s).par = s.par := rfl
@[simp] theorem setAe_draws : (setAe i x s).draws = s.draws := rfl
@[simp] theorem setAe_host : (setAe i x s).host = s.host := rfl
@[simp] theorem setAe_hostData : (setAe i x s).hostData = s.hostData := rfl
@[simp] theorem setAe_report : (setAe i x s).report = s.report := rfl
end setAe

section setArg
variable (s : State) (i : Fin 6) (v : Word)
@[simp] theorem setArg_args : (setArg i v s).args = s.args.set i.val v i.isLt := rfl
@[simp] theorem setArg_code : (setArg i v s).code = s.code := rfl
@[simp] theorem setArg_busy : (setArg i v s).busy = s.busy := rfl
@[simp] theorem setArg_res : (setArg i v s).res = s.res := rfl
@[simp] theorem setArg_sc : (setArg i v s).sc = s.sc := rfl
@[simp] theorem setArg_ae : (setArg i v s).ae = s.ae := rfl
@[simp] theorem setArg_mem : (setArg i v s).mem = s.mem := rfl
@[simp] theorem setArg_par : (setArg i v s).par = s.par := rfl
@[simp] theorem setArg_draws : (setArg i v s).draws = s.draws := rfl
@[simp] theorem setArg_host : (setArg i v s).host = s.host := rfl
@[simp] theorem setArg_hostData : (setArg i v s).hostData = s.hostData := rfl
@[simp] theorem setArg_report : (setArg i v s).report = s.report := rfl
end setArg

section memWrite
variable (s : State) (a : Nat) (bs : List Byte)
@[simp] theorem memWrite_args : (memWrite a bs s).args = s.args := rfl
@[simp] theorem memWrite_code : (memWrite a bs s).code = s.code := rfl
@[simp] theorem memWrite_busy : (memWrite a bs s).busy = s.busy := rfl
@[simp] theorem memWrite_res : (memWrite a bs s).res = s.res := rfl
@[simp] theorem memWrite_sc : (memWrite a bs s).sc = s.sc := rfl
@[simp] theorem memWrite_ae : (memWrite a bs s).ae = s.ae := rfl
@[simp] theorem memWrite_mem : (memWrite a bs s).mem = Memory.writeBytes s.mem a bs := rfl
@[simp] theorem memWrite_par : (memWrite a bs s).par = s.par := rfl
@[simp] theorem memWrite_draws : (memWrite a bs s).draws = s.draws := rfl
@[simp] theorem memWrite_host : (memWrite a bs s).host = s.host := rfl
@[simp] theorem memWrite_hostData : (memWrite a bs s).hostData = s.hostData := rfl
@[simp] theorem memWrite_report : (memWrite a bs s).report = s.report := rfl
end memWrite

section complete
variable (s : State) (c : Code) (r : Word)
@[simp] theorem complete_args : (complete c r s).args = s.args := rfl
@[simp] theorem complete_code : (complete c r s).code = c.byte := rfl
@[simp] theorem complete_busy : (complete c r s).busy = false := rfl
@[simp] theorem complete_res : (complete c r s).res = r := rfl
@[simp] theorem complete_sc : (complete c r s).sc = s.sc := rfl
@[simp] theorem complete_ae : (complete c r s).ae = s.ae := rfl
@[simp] theorem complete_mem : (complete c r s).mem = s.mem := rfl
@[simp] theorem complete_par : (complete c r s).par = s.par := rfl
@[simp] theorem complete_draws : (complete c r s).draws = s.draws := rfl
@[simp] theorem complete_host : (complete c r s).host = s.host := rfl
@[simp] theorem complete_hostData : (complete c r s).hostData = s.hostData := rfl
@[simp] theorem complete_report : (complete c r s).report = s.report := rfl
end complete

section blockReset
variable (s : State)
@[simp] theorem blockReset_args : (blockReset s).args = Vector.replicate 6 0 := rfl
@[simp] theorem blockReset_code : (blockReset s).code = 0 := rfl
@[simp] theorem blockReset_busy : (blockReset s).busy = false := rfl
@[simp] theorem blockReset_res : (blockReset s).res = 0 := rfl
@[simp] theorem blockReset_sc : (blockReset s).sc = s.sc.map fun _ => Cipher.zero := rfl
@[simp] theorem blockReset_ae : (blockReset s).ae = s.ae.map fun _ => AeSlot.zero := rfl
@[simp] theorem blockReset_mem : (blockReset s).mem = s.mem := rfl
@[simp] theorem blockReset_par : (blockReset s).par = s.par := rfl
@[simp] theorem blockReset_draws : (blockReset s).draws = s.draws := rfl
@[simp] theorem blockReset_host : (blockReset s).host = s.host := rfl
@[simp] theorem blockReset_hostData : (blockReset s).hostData = s.hostData := rfl
@[simp] theorem blockReset_report : (blockReset s).report = s.report := rfl
end blockReset

section zeroize
variable (s : State) (n : SlotName)
@[simp] theorem zeroize_args : (zeroize n s).args = s.args := by cases n <;> rfl
@[simp] theorem zeroize_code : (zeroize n s).code = s.code := by cases n <;> rfl
@[simp] theorem zeroize_busy : (zeroize n s).busy = s.busy := by cases n <;> rfl
@[simp] theorem zeroize_res : (zeroize n s).res = s.res := by cases n <;> rfl
@[simp] theorem zeroize_mem : (zeroize n s).mem = s.mem := by cases n <;> rfl
@[simp] theorem zeroize_par : (zeroize n s).par = s.par := by cases n <;> rfl
@[simp] theorem zeroize_draws : (zeroize n s).draws = s.draws := by cases n <;> rfl
@[simp] theorem zeroize_host : (zeroize n s).host = s.host := by cases n <;> rfl
@[simp] theorem zeroize_hostData : (zeroize n s).hostData = s.hostData := by cases n <;> rfl
@[simp] theorem zeroize_report : (zeroize n s).report = s.report := by cases n <;> rfl
@[simp] theorem zeroize_none : zeroize .none s = s := rfl
@[simp] theorem zeroize_sc_named (i : Nat) : zeroize (.sc i) s = setSc i Cipher.zero s := rfl
@[simp] theorem zeroize_ae_named (i : Nat) : zeroize (.ae i) s = setAe i AeSlot.zero s := rfl
@[simp] theorem zeroize_sc_length : (zeroize n s).sc.length = s.sc.length := by cases n <;> simp
@[simp] theorem zeroize_ae_length : (zeroize n s).ae.length = s.ae.length := by cases n <;> simp
end zeroize

section fail
variable (s : State) (n : SlotName) (c : Code)
@[simp] theorem fail_args : (fail n c s).args = s.args := by simp [fail]
@[simp] theorem fail_code : (fail n c s).code = c.byte := by simp [fail]
@[simp] theorem fail_busy : (fail n c s).busy = false := by simp [fail]
@[simp] theorem fail_res : (fail n c s).res = 0 := by simp [fail]
@[simp] theorem fail_sc : (fail n c s).sc = (zeroize n s).sc := by simp [fail]
@[simp] theorem fail_ae : (fail n c s).ae = (zeroize n s).ae := by simp [fail]
@[simp] theorem fail_mem : (fail n c s).mem = s.mem := by simp [fail]
@[simp] theorem fail_par : (fail n c s).par = s.par := by simp [fail]
@[simp] theorem fail_draws : (fail n c s).draws = s.draws := by simp [fail]
@[simp] theorem fail_host : (fail n c s).host = s.host := by simp [fail]
@[simp] theorem fail_hostData : (fail n c s).hostData = s.hostData := by simp [fail]
@[simp] theorem fail_report : (fail n c s).report = s.report := by simp [fail]
end fail

/-- A state with the same value in every field is the same state. -/
theorem state_ext {s t : State} (h : s.args = t.args ∧ s.code = t.code ∧ s.busy = t.busy ∧ s.res = t.res ∧ s.sc = t.sc
    ∧ s.ae = t.ae ∧ s.mem = t.mem ∧ s.par = t.par ∧ s.draws = t.draws ∧ s.host = t.host ∧ s.hostData = t.hostData
    ∧ s.report = t.report) : s = t := by
  cases s; cases t; simp_all

end Sys2Proof.Machine
end

