-- ==== Sys2Proof/Laws/Ops.lean ====
section
/-! SUPPORT. What each shared operation of the meanings can answer, said once: the lemmas a proof about a command cites instead of unfolding the operation. -/
namespace Sys2Proof.Machine

/-- A guarded command either fails with the check's code or goes on. -/
theorem guarded_next {n : SlotName} {check : Option Code} {s t : State} {k : Result}
    (h : guarded n check s k = .next t) : (∃ c, check = some c ∧ t = fail n c s) ∨ (check = none ∧ k = .next t) := by
  cases check with
  | none => exact .inr ⟨rfl, h⟩
  | some c => exact .inl ⟨c, rfl, by simpa [guarded] using h.symm⟩

@[simp] theorem guarded_none (n : SlotName) (s : State) (k : Result) : guarded n none s k = k := rfl

@[simp] theorem guarded_some (n : SlotName) (c : Code) (s : State) (k : Result) :
    guarded n (some c) s k = .next (fail n c s) := rfl

/-- A command on a cipher slot either names an absent slot or runs on the slot it names. -/
theorem withSc_next {slot : BitVec 8} {s t : State} {k : Cipher → Result} (h : withSc slot s k = .next t) :
    (s.sc[slot.toNat]? = none ∧ t = fail .none .invalidSlot s) ∨ ∃ c, s.sc[slot.toNat]? = some c ∧ k c = .next t := by
  unfold withSc at h
  split at h
  · exact .inl ⟨‹_›, by simpa using h.symm⟩
  · exact .inr ⟨_, ‹_›, h⟩

theorem withSc_some {slot : BitVec 8} {s : State} {c : Cipher} (h : s.sc[slot.toNat]? = some c) (k : Cipher → Result) :
    withSc slot s k = k c := by simp [withSc, h]

theorem withSc_absent {slot : BitVec 8} {s : State} (h : s.sc[slot.toNat]? = none) (k : Cipher → Result) :
    withSc slot s k = .next (fail .none .invalidSlot s) := by simp [withSc, h]

/-- A command on an AEAD slot either names an absent slot or runs on the slot it names. -/
theorem withAe_next {slot : BitVec 8} {s t : State} {k : AeSlot → Result} (h : withAe slot s k = .next t) :
    (s.ae[slot.toNat]? = none ∧ t = fail .none .invalidSlot s) ∨ ∃ x, s.ae[slot.toNat]? = some x ∧ k x = .next t := by
  unfold withAe at h
  split at h
  · exact .inl ⟨‹_›, by simpa using h.symm⟩
  · exact .inr ⟨_, ‹_›, h⟩

theorem withAe_some {slot : BitVec 8} {s : State} {x : AeSlot} (h : s.ae[slot.toNat]? = some x) (k : AeSlot → Result) :
    withAe slot s k = k x := by simp [withAe, h]

theorem withAe_absent {slot : BitVec 8} {s : State} (h : s.ae[slot.toNat]? = none) (k : AeSlot → Result) :
    withAe slot s k = .next (fail .none .invalidSlot s) := by simp [withAe, h]

/-- The first failure is one of those listed, and its condition holds. -/
theorem firstFailure_mem {l : List (Bool × Code)} {c : Code} (h : firstFailure l = some c) : (true, c) ∈ l := by
  induction l with
  | nil => simp [firstFailure] at h
  | cons p l ih =>
    obtain ⟨b, d⟩ := p
    cases b with
    | true => simp_all [firstFailure]
    | false => simpa using ih (by simpa [firstFailure] using h)

/-- A list of checks passes exactly when none of its conditions holds. -/
theorem firstFailure_none {l : List (Bool × Code)} : firstFailure l = none ↔ ∀ p ∈ l, p.1 = false := by
  induction l with
  | nil => simp [firstFailure]
  | cons p l ih =>
    obtain ⟨b, d⟩ := p
    cases b <;> simp [firstFailure, ih]

/-- A failing command reports a code other than OK unless it was given OK. -/
theorem Code.byte_eq_zero {c : Code} : c.byte = 0 ↔ c = .ok := by cases c <;> decide

theorem Code.byte_injective {c d : Code} (h : c.byte = d.byte) : c = d := by
  revert h; cases c <;> cases d <;> decide

end Sys2Proof.Machine
end

