-- ==== Sys2Proof/Laws/Exec.lean ====
section
/-! SUPPORT. For each command everything it can answer when it answers a next state: an absent slot, a failure, or its effect. A proof over commands cites these and never unfolds a meaning. -/
namespace Sys2Proof.Machine

theorem execScInit_next {slot : BitVec 8} {s t : State} (h : execScInit slot s = .next t) :
    (s.sc[slot.toNat]? = none ∧ t = fail .none .invalidSlot s) ∨
    (∃ c, scInitCheck s = some c ∧ t = fail (.sc slot.toNat) c s) ∨
    (slot.toNat < s.sc.length ∧ scInitCheck s = none ∧ t = complete .ok 0 (setSc slot.toNat
      (cipherInit (memRead s (argNat s 0) (argNat s 1)) (memRead s (argNat s 2) (argNat s 3)) (ctrOperand s)) s)) := by
  rcases withSc_next h with h | ⟨c, hc, h⟩
  · exact .inl h
  · rcases guarded_next h with ⟨d, hd, h⟩ | ⟨hn, h⟩
    · exact .inr (.inl ⟨d, hd, h⟩)
    · exact .inr (.inr ⟨(List.getElem?_eq_some_iff.1 hc).1, hn, by simpa using h.symm⟩)

theorem execScXor_next {slot : BitVec 8} {s t : State} (h : execScXor slot s = .next t) :
    (s.sc[slot.toNat]? = none ∧ t = fail .none .invalidSlot s) ∨
    (∃ c, s.sc[slot.toNat]? = some c ∧ c.cur = .uninit ∧ t = fail (.sc slot.toNat) .notInitialized s) ∨
    (∃ c i, s.sc[slot.toNat]? = some c ∧ c.cur = .idx i ∧
      ((regionOk s (argNat s 0) (argNat s 1) = false ∧ t = fail (.sc slot.toNat) .boundsError s) ∨
       (regionOk s (argNat s 0) (argNat s 1) = true ∧ t = complete .ok 0 (memWrite (argNat s 0)
          (ksXor c i (memRead s (argNat s 0) (argNat s 1))).2
          (setSc slot.toNat (ksXor c i (memRead s (argNat s 0) (argNat s 1))).1 s))))) := by
  rcases withSc_next h with h | ⟨c, hc, h⟩
  · exact .inl h
  · cases hu : c.cur with
    | uninit => rw [hu] at h; exact .inr (.inl ⟨c, hc, hu, by simpa using h.symm⟩)
    | idx i =>
      rw [hu] at h
      refine .inr (.inr ⟨c, i, hc, hu, ?_⟩)
      cases hr : regionOk s (argNat s 0) (argNat s 1) with
      | false => exact .inl ⟨rfl, by simpa [firstFailure, hr] using h.symm⟩
      | true => exact .inr ⟨rfl, by simpa [firstFailure, hr] using h.symm⟩

theorem execScDestroy_next {slot : BitVec 8} {s t : State} (h : execScDestroy slot s = .next t) :
    (s.sc[slot.toNat]? = none ∧ t = fail .none .invalidSlot s) ∨
    (slot.toNat < s.sc.length ∧ t = complete .ok 0 (setSc slot.toNat Cipher.zero s)) := by
  rcases withSc_next h with h | ⟨c, hc, h⟩
  · exact .inl h
  · exact .inr ⟨(List.getElem?_eq_some_iff.1 hc).1, by simpa using h.symm⟩

theorem execDerive_next {s t : State} (h : execDerive s = .next t) :
    (∃ c, deriveCheck s = some c ∧ t = fail .none c s) ∨
    (deriveCheck s = none ∧ t = complete .ok 0 (memWrite (argNat s 3)
      (deriveCore (memRead s (argNat s 0) (argNat s 1)) (memRead s (argNat s 2) 16)) s)) := by
  rcases guarded_next h with h | ⟨hn, h⟩
  · exact .inl h
  · exact .inr ⟨hn, by simpa using h.symm⟩

/-- The common shape of the AEAD commands: an absent slot, a failure, or the effect on the slot named. -/
theorem withAe_guarded_next {slot : BitVec 8} {s t : State} {check : AeSlot → Option Code} {k : AeSlot → Result}
    (h : withAe slot s (fun x => guarded (.ae slot.toNat) (check x) s (k x)) = .next t) :
    (s.ae[slot.toNat]? = none ∧ t = fail .none .invalidSlot s) ∨
    ∃ x, s.ae[slot.toNat]? = some x ∧
      ((∃ c, check x = some c ∧ t = fail (.ae slot.toNat) c s) ∨ (check x = none ∧ k x = .next t)) := by
  rcases withAe_next h with h | ⟨x, hx, h⟩
  · exact .inl h
  · exact .inr ⟨x, hx, guarded_next h⟩

theorem execAeInit_next {slot : BitVec 8} {s t : State} (h : execAeInit slot s = .next t) :
    (s.ae[slot.toNat]? = none ∧ t = fail .none .invalidSlot s) ∨
    ∃ x, s.ae[slot.toNat]? = some x ∧
      ((∃ c, aeInitCheck s = some c ∧ t = fail (.ae slot.toNat) c s) ∨
       (aeInitCheck s = none ∧ t = complete .ok 0 (setAe slot.toNat
          (aeStart (memRead s (argNat s 0) (argNat s 1)) (memRead s (argNat s 2) (argNat s 3))) s))) := by
  rcases withAe_guarded_next h with h | ⟨x, hx, h | ⟨hn, h⟩⟩
  · exact .inl h
  · exact .inr ⟨x, hx, .inl h⟩
  · exact .inr ⟨x, hx, .inr ⟨hn, by simpa using h.symm⟩⟩

theorem execAeAad_next {slot : BitVec 8} {s t : State} (h : execAeAad slot s = .next t) :
    (s.ae[slot.toNat]? = none ∧ t = fail .none .invalidSlot s) ∨
    ∃ x, s.ae[slot.toNat]? = some x ∧
      ((∃ c, aeAadCheck x s = some c ∧ t = fail (.ae slot.toNat) c s) ∨
       (aeAadCheck x s = none ∧ t = complete .ok 0 (setAe slot.toNat
          { x with
            mac := macUpdate x.mac (memRead s (argNat s 0) (argNat s 1))
            aadCnt := x.aadCnt + BitVec.ofNat 64 (argNat s 1) } s))) := by
  rcases withAe_guarded_next h with h | ⟨x, hx, h | ⟨hn, h⟩⟩
  · exact .inl h
  · exact .inr ⟨x, hx, .inl h⟩
  · exact .inr ⟨x, hx, .inr ⟨hn, by simpa using h.symm⟩⟩

/-- withCursor goes on only with an initialized private cipher. -/
theorem withCursor_next {x : AeSlot} {t : State} {k : Fin 64 → Result} (h : withCursor x k = .next t) :
    ∃ i, x.c.cur = .idx i ∧ k i = .next t := by
  unfold withCursor at h
  split at h
  · cases h
  · exact ⟨_, ‹_›, h⟩

theorem withCursor_idx {x : AeSlot} {i : Fin 64} (h : x.c.cur = .idx i) (k : Fin 64 → Result) : withCursor x k = k i := by
  simp [withCursor, h]

theorem execAeEncrypt_next {slot : BitVec 8} {s t : State} (h : execAeEncrypt slot s = .next t) :
    (s.ae[slot.toNat]? = none ∧ t = fail .none .invalidSlot s) ∨
    ∃ x, s.ae[slot.toNat]? = some x ∧
      ((∃ c, enterCheck .encrypt x s = some c ∧ t = fail (.ae slot.toNat) c s) ∨
       (enterCheck .encrypt x s = none ∧ ∃ i, x.c.cur = .idx i ∧ t = complete .ok 0 (memWrite (argNat s 0)
          (ksXor x.c i (memRead s (argNat s 0) (argNat s 1))).2
          (setAe slot.toNat (absorb (enterMode .encrypt x) (ksXor x.c i (memRead s (argNat s 0) (argNat s 1))).1
            (ksXor x.c i (memRead s (argNat s 0) (argNat s 1))).2 (argNat s 1)) s)))) := by
  rcases withAe_guarded_next h with h | ⟨x, hx, h | ⟨hn, h⟩⟩
  · exact .inl h
  · exact .inr ⟨x, hx, .inl h⟩
  · obtain ⟨i, hi, h⟩ := withCursor_next h
    exact .inr ⟨x, hx, .inr ⟨hn, i, hi, by simpa using h.symm⟩⟩

theorem execAeDecrypt_next {slot : BitVec 8} {s t : State} (h : execAeDecrypt slot s = .next t) :
    (s.ae[slot.toNat]? = none ∧ t = fail .none .invalidSlot s) ∨
    ∃ x, s.ae[slot.toNat]? = some x ∧
      ((∃ c, enterCheck .decrypt x s = some c ∧ t = fail (.ae slot.toNat) c s) ∨
       (enterCheck .decrypt x s = none ∧ ∃ i, x.c.cur = .idx i ∧ t = complete .ok 0 (memWrite (argNat s 0)
          (ksXor x.c i (memRead s (argNat s 0) (argNat s 1))).2
          (setAe slot.toNat (absorb (enterMode .decrypt x) (ksXor x.c i (memRead s (argNat s 0) (argNat s 1))).1
            (memRead s (argNat s 0) (argNat s 1)) (argNat s 1)) s)))) := by
  rcases withAe_guarded_next h with h | ⟨x, hx, h | ⟨hn, h⟩⟩
  · exact .inl h
  · exact .inr ⟨x, hx, .inl h⟩
  · obtain ⟨i, hi, h⟩ := withCursor_next h
    exact .inr ⟨x, hx, .inr ⟨hn, i, hi, by simpa using h.symm⟩⟩

theorem execAeAuth_next {slot : BitVec 8} {s t : State} (h : execAeAuth slot s = .next t) :
    (s.ae[slot.toNat]? = none ∧ t = fail .none .invalidSlot s) ∨
    ∃ x, s.ae[slot.toNat]? = some x ∧
      ((∃ c, enterCheck .auth x s = some c ∧ t = fail (.ae slot.toNat) c s) ∨
       (enterCheck .auth x s = none ∧ t = complete .ok 0 (setAe slot.toNat
          (absorb (enterMode .auth x) x.c (memRead s (argNat s 0) (argNat s 1)) (argNat s 1)) s))) := by
  rcases withAe_guarded_next h with h | ⟨x, hx, h | ⟨hn, h⟩⟩
  · exact .inl h
  · exact .inr ⟨x, hx, .inl h⟩
  · exact .inr ⟨x, hx, .inr ⟨hn, by simpa using h.symm⟩⟩

theorem execAeFinal_next {slot : BitVec 8} {s t : State} (h : execAeFinal slot s = .next t) :
    (s.ae[slot.toNat]? = none ∧ t = fail .none .invalidSlot s) ∨
    ∃ x, s.ae[slot.toNat]? = some x ∧
      ((∃ c, aeFinalCheck x s = some c ∧ t = fail (.ae slot.toNat) c s) ∨
       (aeFinalCheck x s = none ∧ t = complete .ok 0 (memWrite (argNat s 0) (finalizeTag s.par.mac x).toList
          (setAe slot.toNat AeSlot.zero s)))) := by
  rcases withAe_guarded_next h with h | ⟨x, hx, h | ⟨hn, h⟩⟩
  · exact .inl h
  · exact .inr ⟨x, hx, .inl h⟩
  · exact .inr ⟨x, hx, .inr ⟨hn, by simpa using h.symm⟩⟩

theorem execAeVerify_next {slot : BitVec 8} {s t : State} (h : execAeVerify slot s = .next t) :
    (s.ae[slot.toNat]? = none ∧ t = fail .none .invalidSlot s) ∨
    ∃ x, s.ae[slot.toNat]? = some x ∧
      ((∃ c, aeVerifyCheck x s = some c ∧ t = fail (.ae slot.toNat) c s) ∨
       (aeVerifyCheck x s = none ∧ t = complete .ok
          (ctEq16 (finalizeTag s.par.mac x) (toVec 16 0 (memRead s (argNat s 0) 16)))
          (setAe slot.toNat AeSlot.zero s))) := by
  rcases withAe_guarded_next h with h | ⟨x, hx, h | ⟨hn, h⟩⟩
  · exact .inl h
  · exact .inr ⟨x, hx, .inl h⟩
  · exact .inr ⟨x, hx, .inr ⟨hn, by simpa using h.symm⟩⟩

theorem execAeDestroy_next {slot : BitVec 8} {s t : State} (h : execAeDestroy slot s = .next t) :
    (s.ae[slot.toNat]? = none ∧ t = fail .none .invalidSlot s) ∨
    (slot.toNat < s.ae.length ∧ t = complete .ok 0 (setAe slot.toNat AeSlot.zero s)) := by
  rcases withAe_next h with h | ⟨x, hx, h⟩
  · exact .inl h
  · exact .inr ⟨(List.getElem?_eq_some_iff.1 hx).1, by simpa using h.symm⟩

/-- A step performs the host's next action with that action taken off the list. -/
theorem step_cons {s : State} {a : HostAction} {acts : List HostAction} (h : s.host = a :: acts) :
    step s = hostAct a { s with host := acts } := by simp [step, hostTurn, h]

end Sys2Proof.Machine
end

