-- ==== Sys2Proof/Laws/Memory.lean ====
section
/-! SUPPORT. The laws of DMEM: a write is what a later read of that byte gives and leaves every other byte alone, and every operation keeps the canonical form and stays inside any bound its addresses respect. -/
namespace Sys2Proof.Machine

theorem Memory.find?_write (m : List Host.Cell) (a b : Nat) (v : Byte) (h : Memory.wf m) :
    Memory.find? (Memory.write m a v) b = if b = a then some v else Memory.find? m b := by
  induction m with
  | nil => simp [Memory.write, Memory.find?, Memory.unlisted]
  | cons p m ih =>
    obtain ⟨c, w⟩ := p
    have ih := ih (List.pairwise_cons.1 h).2
    simp only [Memory.write]
    split
    · simp [Memory.find?]
    · split
      · subst_vars
        simp only [Memory.find?]
        split <;> rfl
      · simp only [Memory.find?, ih]
        split <;> split <;> simp_all

/-- A byte read after one write, whether or not the memory is in canonical form. -/
@[simp] theorem Memory.read_write_self (m : List Host.Cell) (a : Nat) (v : Byte) :
    Memory.read (Memory.write m a v) a = v := by
  induction m with
  | nil => simp [Memory.write, Memory.read, Memory.find?]
  | cons p m ih =>
    obtain ⟨c, w⟩ := p
    simp only [Memory.write]
    split
    · simp [Memory.read, Memory.find?]
    · split
      · simp [Memory.read, Memory.find?]
      · rename_i h
        simpa [Memory.read, Memory.find?, h] using ih

theorem Memory.read_write_other (m : List Host.Cell) (a b : Nat) (v : Byte) (h : b ≠ a) :
    Memory.read (Memory.write m a v) b = Memory.read m b := by
  induction m with
  | nil => simp [Memory.write, Memory.read, Memory.find?, h]
  | cons p m ih =>
    obtain ⟨c, w⟩ := p
    simp only [Memory.write]
    split
    · simp [Memory.read, Memory.find?, h]
    · split
      · subst_vars
        simp [Memory.read, Memory.find?, h]
      · simp only [Memory.read, Memory.find?] at ih ⊢
        split
        · rfl
        · exact ih

/-- What a write lists: the written address, or an address listed before. -/
theorem Memory.mem_write {m : List Host.Cell} {a : Nat} {v : Byte} {p : Host.Cell} (h : p ∈ Memory.write m a v) :
    p = (a, v) ∨ p ∈ m := by
  induction m with
  | nil => simpa [Memory.write] using h
  | cons q m ih =>
    obtain ⟨c, w⟩ := q
    simp only [Memory.write] at h
    split at h
    · simpa using h
    · split at h
      · rcases List.mem_cons.1 h with h | h
        · exact .inl h
        · exact .inr (List.mem_cons_of_mem _ h)
      · rcases List.mem_cons.1 h with h | h
        · exact .inr (h ▸ List.mem_cons_self)
        · exact (ih h).imp_right (List.mem_cons_of_mem _)

/-- A write keeps the canonical form. -/
theorem Memory.wf_write {m : List Host.Cell} (h : Memory.wf m) (a : Nat) (v : Byte) : Memory.wf (Memory.write m a v) := by
  induction m with
  | nil => simp [Memory.write, Memory.wf]
  | cons p m ih =>
    obtain ⟨c, w⟩ := p
    obtain ⟨hc, hm⟩ := List.pairwise_cons.1 h
    simp only [Memory.write]
    split
    · refine List.pairwise_cons.2 ⟨fun q hq => ?_, h⟩
      rcases List.mem_cons.1 hq with rfl | hq
      · assumption
      · have := hc q hq
        simp only at this ⊢
        omega
    · split
      · subst_vars
        exact List.pairwise_cons.2 ⟨hc, hm⟩
      · refine List.pairwise_cons.2 ⟨fun q hq => ?_, ih hm⟩
        rcases Memory.mem_write hq with rfl | hq
        · simp only
          omega
        · exact hc q hq

/-- MemWrite keeps the canonical form. -/
theorem Memory.wf_writeBytes {m : List Host.Cell} (h : Memory.wf m) (a : Nat) (bs : List Byte) :
    Memory.wf (Memory.writeBytes m a bs) := by
  induction bs generalizing m a with
  | nil => exact h
  | cons b bs ih => exact ih (Memory.wf_write h a b) (a + 1)

/-- MemWrite lists no address outside its region that was not listed before. -/
theorem Memory.mem_writeBytes {m : List Host.Cell} {a : Nat} {bs : List Byte} {p : Host.Cell}
    (h : p ∈ Memory.writeBytes m a bs) : (a ≤ p.1 ∧ p.1 < a + bs.length) ∨ p ∈ m := by
  induction bs generalizing m a with
  | nil => exact .inr h
  | cons b bs ih =>
    rcases ih h with ⟨h1, h2⟩ | h
    · simp only [List.length_cons]
      omega
    · rcases Memory.mem_write h with rfl | h
      · simp
      · exact .inr h

/-- The bytes drawn for an abandoned command keep the canonical form. -/
theorem drawBytes_wf {s : State} (h : Memory.wf s.mem) (a n : Nat) : Memory.wf (drawBytes a n s).mem := by
  induction n generalizing s a with
  | zero => exact h
  | succ n ih => exact ih (Memory.wf_write h _ _) _

theorem drawBytes_mem {s : State} {a n : Nat} {p : Host.Cell} (h : p ∈ (drawBytes a n s).mem) :
    (a ≤ p.1 ∧ p.1 < a + n) ∨ p ∈ s.mem := by
  induction n generalizing s a with
  | zero => exact .inr h
  | succ n ih =>
    rcases ih h with h | h
    · omega
    · rcases Memory.mem_write h with rfl | h
      · simp
      · exact .inr h

/-- Drawing bytes for an abandoned command changes no field but DMEM, and no byte outside the region drawn. -/
theorem drawBytes_frame (a n : Nat) (s : State) :
    ∃ m, drawBytes a n s = { s with mem := m }
      ∧ ∀ b, b < a ∨ a + n ≤ b → Memory.read m b = Memory.read s.mem b := by
  induction n generalizing a s with
  | zero => exact ⟨s.mem, rfl, fun _ _ => rfl⟩
  | succ n ih =>
    obtain ⟨m, hm, hr⟩ := ih (a + 1) { s with mem := Memory.write s.mem a (Config.abandonedByte s.draws a) }
    refine ⟨m, hm, fun b hb => ?_⟩
    rw [hr b (by omega)]
    exact Memory.read_write_other _ _ _ _ (by omega)

/-- Power-on lists nothing, which is the canonical form. -/
theorem Memory.wf_reset : Memory.wf State.reset.mem := List.Pairwise.nil

end Sys2Proof.Machine
end

