-- ==== Sys2Proof/Laws/PerInstr.lean ====
section
/-! SUPPORT. The family EncodeFields: the three fields of each command's word (30_encoding.md rules R80 to R84), one lemma per constructor of Instr. -/
namespace Sys2Proof.Laws.EncodeFields

/-- The encoded word's OPC, SLOT and RSV fields. -/
def Statement (i : Instr) : Prop :=
  opcOf (encode i) = opcode i ∧ slotOf (encode i) = slotField i ∧ rsvOf (encode i) = 0

theorem fields (o s : BitVec 8) :
    opcOf ((s.zeroExtend 32 <<< 8) ||| o.zeroExtend 32) = o
    ∧ slotOf ((s.zeroExtend 32 <<< 8) ||| o.zeroExtend 32) = s
    ∧ rsvOf ((s.zeroExtend 32 <<< 8) ||| o.zeroExtend 32) = 0 := by
  refine ⟨?_, ?_, ?_⟩ <;> simp only [opcOf, slotOf, rsvOf] <;> ext k hk
  · have h : k < 32 := by omega
    simp [hk, h]
  · have h : 8 + k < 32 := by omega
    simp [h, BitVec.getLsbD_eq_getElem hk]
  · simp
    exact ⟨fun _ _ _ => BitVec.getLsbD_of_ge _ _ (by omega), fun _ => BitVec.getLsbD_of_ge _ _ (by omega)⟩

theorem scInit (slot : BitVec 8) : Statement (.scInit slot) := fields _ _
theorem scXor (slot : BitVec 8) : Statement (.scXor slot) := fields _ _
theorem scDestroy (slot : BitVec 8) : Statement (.scDestroy slot) := fields _ _
theorem derive : Statement .derive := fields _ _
theorem aeInit (slot : BitVec 8) : Statement (.aeInit slot) := fields _ _
theorem aeAad (slot : BitVec 8) : Statement (.aeAad slot) := fields _ _
theorem aeEncrypt (slot : BitVec 8) : Statement (.aeEncrypt slot) := fields _ _
theorem aeDecrypt (slot : BitVec 8) : Statement (.aeDecrypt slot) := fields _ _
theorem aeAuth (slot : BitVec 8) : Statement (.aeAuth slot) := fields _ _
theorem aeFinal (slot : BitVec 8) : Statement (.aeFinal slot) := fields _ _
theorem aeVerify (slot : BitVec 8) : Statement (.aeVerify slot) := fields _ _
theorem aeDestroy (slot : BitVec 8) : Statement (.aeDestroy slot) := fields _ _

end Sys2Proof.Laws.EncodeFields
end

