-- ==== Sys2Proof/Tests/Slice0.lean ====
section
/-! SUPPORT. Tests of the model on values worked out in 95_test_vectors.md, the well-formedness smoke test, every command's word written out from its encoding, and one witness for every obligation that has hypotheses. -/
namespace Sys2Proof.Tests

open Sys2Proof Sys2Proof.Machine

/-! ### Helpers -/

/-- The state an outcome gives, none where it stops. -/
def after : Result → Option State
  | .next t => some t
  | .fault _ => none
  | .refused _ => none

/-- n bytes in memory order, from the hex digits of 95_test_vectors.md read as one number. -/
def hex (n v : Nat) : List Byte := (leBytes n v).reverse

/-- The bytes a, a + 1, ... (95's notation 00..1f). -/
def range (a n : Nat) : List Byte := (List.range n).map fun k => BitVec.ofNat 8 (a + k)

/-- The reset state with argument registers and some DMEM contents set. -/
def st (args : Vector Word 6) (mem : List (Nat × List Byte)) : State :=
  { State.reset with args := args, mem := mem.foldl (fun m p => Memory.writeBytes m p.1 p.2) [] }

/-- The reset state with its AEAD slot set. -/
def stAe (x : AeSlot) (args : Vector Word 6) (mem : List (Nat × List Byte)) : State :=
  { st args mem with ae := [x] }

/-- The reset state with its cipher slot set. -/
def stSc (c : Cipher) (args : Vector Word 6) (mem : List (Nat × List Byte)) : State :=
  { st args mem with sc := [c] }

/-- The reset state with host actions pending. -/
def stHost (acts : List HostAction) : State := { State.reset with host := acts }

/-- The key 00..1f and a 12-byte zero nonce where the vectors of 95 section 2.6 put them, and "abc" at 0x040. -/
def setup26 : List (Nat × List Byte) := [(0, range 0 32), (0x20, zeros 12), (0x40, [0x61, 0x62, 0x63])]

/-- The MAC key of 95 section 2.6. -/
def macKey26 : List Byte := hex 32 0x39fd2b7dd9c5196a8dbd0377b8dc4a498a35d86fbcde6accb2cc7d4cd8ea2492

/-- A cipher in use whose keystream buffer holds only bytes 0xFF, at cursor 0. -/
def onesCipher : Cipher := { w := Vector.replicate 16 0, ks := Vector.replicate 64 0xFF, cur := .idx 0 }

/-- A context in state Aad with MACKEY of 95 section 2.6 and the cipher above. -/
def aadSlot : AeSlot :=
  { st := .aad, aadCnt := 0, ctCnt := 0, macKey := toVec 64 0 (macKey26 ++ zeros 32), c := onesCipher
    mac := { k := toVec 32 0 macKey26, msg := [], act := true } }

/-- The tag of the empty message (95 section 2.6). -/
def emptyTag : List Byte := hex 16 0x10324f800a160bd9a1794255be7ec29d

/-! ### Well-formedness: the check on SLOT refuses a slot the block does not have (R82) -/

theorem test_wellFormed_accepts : [Instr.scInit 1, .scXor 0, .scDestroy 1, .derive, .aeInit 2, .aeAad 0, .aeEncrypt 2,
    .aeDecrypt 1, .aeAuth 2, .aeFinal 0, .aeVerify 2, .aeDestroy 2].all (wellFormed 2 3) = true := by decide

theorem test_wellFormed_refuses_sc_slots :
    wellFormed 2 3 (.scInit 2) = false ∧ wellFormed 2 3 (.scXor 2) = false ∧ wellFormed 2 3 (.scDestroy 255) = false := by
  decide

theorem test_wellFormed_refuses_ae_slots :
    wellFormed 2 3 (.aeInit 3) = false ∧ wellFormed 2 3 (.aeAad 3) = false ∧ wellFormed 2 3 (.aeEncrypt 3) = false
    ∧ wellFormed 2 3 (.aeDecrypt 3) = false ∧ wellFormed 2 3 (.aeAuth 3) = false ∧ wellFormed 2 3 (.aeFinal 3) = false
    ∧ wellFormed 2 3 (.aeVerify 3) = false ∧ wellFormed 2 3 (.aeDestroy 255) = false := by decide

/-- An ill-formed command's word decodes to no command. -/
theorem test_ill_formed_words_decode_to_no_command :
    decode 2 3 (encode (.scXor 2)) = .badSlot ∧ decode 2 3 (encode (.aeVerify 3)) = .badSlot := by decide

/-! ### Every command's word, written out from 30_encoding.md R80 and R84: RSV, SLOT, OPC -/

theorem test_decode_scInit : decode 256 256 0b0000000000000000_00000101_00000001 = .cmd (.scInit 5) := by decide
theorem test_decode_scXor : decode 256 256 0b0000000000000000_10000000_00000010 = .cmd (.scXor 128) := by decide
theorem test_decode_scDestroy : decode 256 256 0b0000000000000000_00000001_00000011 = .cmd (.scDestroy 1) := by decide
theorem test_decode_derive : decode 256 256 0b0000000000000000_00000000_00000100 = .cmd .derive := by decide
theorem test_decode_aeInit : decode 256 256 0b0000000000000000_11111111_00010000 = .cmd (.aeInit 255) := by decide
theorem test_decode_aeAad : decode 256 256 0b0000000000000000_00000010_00010001 = .cmd (.aeAad 2) := by decide
theorem test_decode_aeEncrypt : decode 256 256 0b0000000000000000_00000011_00010010 = .cmd (.aeEncrypt 3) := by decide
theorem test_decode_aeDecrypt : decode 256 256 0b0000000000000000_01000000_00010011 = .cmd (.aeDecrypt 64) := by decide
theorem test_decode_aeAuth : decode 256 256 0b0000000000000000_00000110_00010100 = .cmd (.aeAuth 6) := by decide
theorem test_decode_aeFinal : decode 256 256 0b0000000000000000_00000111_00010101 = .cmd (.aeFinal 7) := by decide
theorem test_decode_aeVerify : decode 256 256 0b0000000000000000_00001000_00010110 = .cmd (.aeVerify 8) := by decide
theorem test_decode_aeDestroy : decode 256 256 0b0000000000000000_00001001_00010111 = .cmd (.aeDestroy 9) := by decide

/-- 95 section 2.1: the reserved words. -/
theorem test_decode_reserved :
    [0x00000104, 0x00000000, 0x00000005, 0x0000000F, 0x00000018, 0x000000FF, 0x00010010, 0x80000012].all
      (fun w => decide (decode 256 256 w = .illegal)) = true := by decide

/-- 95 section 2.1: a slot the block does not have. -/
theorem test_decode_absent_slots :
    decode 1 1 0x00000101 = .badSlot ∧ decode 1 1 0x00000110 = .badSlot
    ∧ decode 2 1 0x00000101 = .cmd (.scInit 1) ∧ decode 1 256 0x0000FF17 = .cmd (.aeDestroy 255) := by decide

/-- A word placed for the next step runs, as the first command after reset: InvalidTagSize before NotInitialized
(95 section 2.7), and InvalidKeySize on AE_INIT with A1 = 0. -/
theorem test_first_command_runs :
    (after (step (State.reset.withFetchWord 32 0x16))).map (·.code) = some 0x05
    ∧ (after (step (State.reset.withFetchWord 32 0x10))).map (·.code) = some 0x01
    ∧ decodeTableWord 32 0xFF16 = some (.aeVerify 255) := by decide

/-! ### The generator (95 section 1 and 2.2) -/

section evaluated
-- One theorem after another: many kernel evaluations at once need too much memory.
set_option Elab.async false

/-- V1 (R100). -/
theorem test_quarterRound :
    let x : Vector Word 16 := #v[0x11111111, 0, 0, 0, 0x01020304, 0, 0, 0, 0x9b8d6f43, 0, 0, 0, 0x01234567, 0, 0, 0]
    let y := quarterRound x 0 4 8 12
    y[0] = 0xea2a92f4 ∧ y[4] = 0xcb1cf8ce ∧ y[8] = 0x4581472e ∧ y[12] = 0x5881c4bb := by decide +kernel

/-- B2, B4, B5: the carry out of W[12] goes into W[13] in every layout and never into W[14] (R103). -/
theorem test_incCounter_carry :
    let a := incCounter (Vector.replicate 16 (0xFFFFFFFF : Word))
    let b := incCounter ((Vector.replicate 16 (0x03020100 : Word)).set 12 0xFFFFFFFF)
    a[12] = 0 ∧ a[13] = 0 ∧ a[14] = 0xFFFFFFFF ∧ b[12] = 0 ∧ b[13] = 0x03020101 ∧ b[14] = 0x03020100 := by decide

/-- 95 section 2.3: NONCE_OK and EFFLEN (R107). -/
theorem test_nonce_lengths :
    (List.range 65).filter nonceOk = [8, 12, 16, 24, 28, 32, 40, 44, 48, 56, 60, 64]
    ∧ [8, 12, 16, 24, 28, 32, 40, 44, 48, 56, 60, 64].map effLen = [8, 12, 16, 8, 12, 16, 8, 12, 16, 8, 12, 16] := by
  decide

/-- 95 section 2.6: PAD16 (R151). -/
theorem test_pad16 : [0, 1, 3, 12, 16, 114].map pad16 = [0, 15, 13, 4, 0, 14] := by decide

/-- 95 section 2.7: CT_EQ16 on equal tags and on tags that differ in one bit (R192). -/
theorem test_ctEq16 :
    let t : Vector Byte 16 := toVec 16 0 (hex 16 0x1ae10b594f09e26a7e902ecbd0600691)
    ctEq16 t t = 1 ∧ ctEq16 t (t.set 0 0x9a) = 0 ∧ ctEq16 t (t.set 15 0x90) = 0 := by decide +kernel

/-! ### SC_INIT, SC_XOR, SC_DESTROY, DERIVE -/

/-- V2: W after SC_INIT and CUR = 63 (R113). -/
theorem test_scInit :
    let s := st #v[0, 32, 0x20, 12, 1, 0] [(0, range 0 32), (0x20, hex 12 0x000000090000004a00000000)]
    (after (exec (.scInit 0) s)).map (fun t => (t.code, t.sc.map fun c => (c.w.toList, c.cur))) =
      some (0x00, [([0x61707865, 0x3320646e, 0x79622d32, 0x6b206574, 0x03020100, 0x07060504, 0x0b0a0908, 0x0f0e0d0c,
        0x13121110, 0x17161514, 0x1b1a1918, 0x1f1e1d1c, 0x00000001, 0x09000000, 0x4a000000, 0x00000000], .idx 63)]) := by
  decide +kernel

/-- 95 section 2.3: OperandRange before BoundsError; the failing command zeroizes its slot (R113, R223, R224). -/
theorem test_scInit_operandRange :
    let s := stSc onesCipher #v[0xFFFF, 32, 0x20, 12, 0, 1] []
    (after (exec (.scInit 0) s)).map (fun t => (t.code, t.sc)) = some (0x13, [Cipher.zero]) := by decide

/-- V2: SC_XOR over 64 zero bytes gives the keystream block, and W[12] is 2 afterwards (R114, R111, R102). -/
theorem test_scXor :
    let c : Cipher :=
      { w := #v[0x61707865, 0x3320646e, 0x79622d32, 0x6b206574, 0x03020100, 0x07060504, 0x0b0a0908, 0x0f0e0d0c,
          0x13121110, 0x17161514, 0x1b1a1918, 0x1f1e1d1c, 0x00000001, 0x09000000, 0x4a000000, 0x00000000]
        ks := Vector.replicate 64 0, cur := .idx 63 }
    let s := stSc c #v[0xFFC0, 64, 0, 0, 0, 0] [(0xFFC0, zeros 64)]
    (after (exec (.scXor 0) s)).map (fun t => (t.code, memRead t 0xFFC0 64, t.sc.map fun c => (c.w[12], c.w[13], c.cur)))
      = some (0x00, hex 64 0x10f1e7e4d13b5915500fdd1fa32071c4c7d1f4c733c068030422aa9ac3d46c4ed2826446079faa0914c2d705d98b02a2b5129cd1de164eb9cbd083e8a2503c4e,
        [(0x00000002, 0x09000000, .idx 63)]) := by decide +kernel

/-- 95 section 2.4: a region of 17 bytes at 0xFFF0 is BoundsError and zeroizes the slot. -/
theorem test_scXor_bounds :
    (after (exec (.scXor 0) (stSc onesCipher #v[0xFFF0, 17, 0, 0, 0, 0] []))).map (fun t => (t.code, t.sc)) =
      some (0x12, [Cipher.zero]) := by decide

/-- 95 section 2.4: destroy gives CODE 0x00 and a zeroized slot, initialized or not; an absent slot is InvalidSlot. -/
theorem test_scDestroy :
    (after (exec (.scDestroy 0) (stSc onesCipher (Vector.replicate 6 0) []))).map (fun t => (t.code, t.sc)) =
      some (0x00, [Cipher.zero])
    ∧ (after (exec (.scDestroy 1) (stSc onesCipher (Vector.replicate 6 0) []))).map (fun t => (t.code, t.sc)) =
      some (0x11, [onesCipher]) := by decide

/-- V5: the sub-key, written at the last 32 bytes of DMEM (95 section 2.5; R116, R104). -/
theorem test_derive :
    let s := st #v[0, 32, 0x20, 0xFFE0, 0, 0] [(0, range 0 32), (0x20, hex 16 0x000000090000004a0000000031415927)]
    (after (exec .derive s)).map (fun t => (t.code, memRead t 0xFFE0 32)) =
      some (0x00, hex 32 0x82413b4227b27bfed30e42508a877d73a0f9e4d58a74a853c12ec41326d3ecdc) := by decide +kernel

/-- 95 section 2.5: an output region one byte too high is BoundsError, key length 24 is InvalidKeySize. -/
theorem test_derive_errors :
    (after (exec .derive (st #v[0, 32, 0x20, 0xFFE1, 0, 0] []))).map (·.code) = some 0x12
    ∧ (after (exec .derive (st #v[0, 24, 0x20, 0x300, 0, 0] []))).map (·.code) = some 0x01 := by decide

/-! ### The AEAD commands -/

/-- V6 and P1: MACKEY from block 0 and the MAC keyed by its first 32 bytes (R152). -/
theorem test_aeInit :
    let s := st #v[0, 32, 0x20, 12, 0, 0] [(0, range 0x80 32), (0x20, hex 12 0x070000004041424344454647)]
    (after (exec (.aeInit 0) s)).map (fun t => t.ae.map fun x => (x.st, x.macKey.toList, x.mac)) =
      some [(.aad, hex 64 0x7bac2b252db447af09b67a55a4e955840ae1d6731075d9eb2a9375783ed553ffa27eccdeaddb4db4d1179ce4c90b43d8bcb7948c4b4b7d8b7df6273932a46916,
        { k := toVec 32 0 (hex 32 0x7bac2b252db447af09b67a55a4e955840ae1d6731075d9eb2a9375783ed553ff), msg := [], act := true })] := by
  decide +kernel

/-- The key check comes before the nonce check (R152, R223). -/
theorem test_aeInit_keySize :
    (after (exec (.aeInit 0) (stAe aadSlot #v[0, 24, 0x20, 20, 0, 0] []))).map (fun t => (t.code, t.ae)) =
      some (0x01, [AeSlot.zero]) := by decide

/-- 95 section 2.6: the AAD "abc" goes to MAC.MSG unpadded and is counted (R153). -/
theorem test_aeAad :
    (after (exec (.aeAad 0) (stAe aadSlot #v[0x40, 3, 0, 0, 0, 0] setup26))).map
        (fun t => t.ae.map fun x => (x.st, x.aadCnt, x.ctCnt, x.mac.msg)) =
      some [(.aad, 3, 0, [0x61, 0x62, 0x63])] := by decide

/-- 95 section 2.6: at AADCNT = 2^53 - 10, 10 more bytes are LengthLimit and 9 more are not. -/
theorem test_aeAad_lengthLimit :
    let x := { aadSlot with aadCnt := 9007199254740982 }
    (after (exec (.aeAad 0) (stAe x #v[0, 10, 0, 0, 0, 0] []))).map (fun t => (t.code, t.ae)) = some (0x14, [AeSlot.zero])
    ∧ (after (exec (.aeAad 0) (stAe x #v[0, 9, 0, 0, 0, 0] []))).map (fun t => (t.code, t.ae.map (·.aadCnt))) =
      some (0x00, [9007199254740991]) := by decide

/-- 95 section 2.6, AAD then encrypt: the ciphertext of "abc" is 79 da 21, so the keystream bytes held are 18 b8 42; the
MAC stream is padded before the ciphertext (R154, R155). -/
theorem test_aeEncrypt :
    let c := { onesCipher with ks := toVec 64 0 [0x00, 0x18, 0xb8, 0x42] }
    let x := { aadSlot with c := c, aadCnt := 3, mac := { aadSlot.mac with msg := [0x61, 0x62, 0x63] } }
    (after (exec (.aeEncrypt 0) (stAe x #v[0x40, 3, 0, 0, 0, 0] setup26))).map
        (fun t => (memRead t 0x40 3, t.ae.map fun x => (x.st, x.mac.msg, x.c.cur))) =
      some ([0x79, 0xda, 0x21], [(.encrypt, hex 19 0x6162630000000000000000000000000079da21, .idx 3)]) := by decide +kernel

/-- 95 section 2.6: a zero-length AE_ENCRYPT locks the mode, so AE_ENCRYPT after a locked Decrypt is InvalidState. -/
theorem test_aeEncrypt_lock :
    (after (exec (.aeEncrypt 0) (stAe aadSlot (Vector.replicate 6 0) []))).map (fun t => (t.code, t.ae.map (·.st))) =
      some (0x00, [.encrypt])
    ∧ (after (exec (.aeEncrypt 0) (stAe { aadSlot with st := .decrypt } (Vector.replicate 6 0) []))).map
        (fun t => (t.code, t.ae)) = some (0x04, [AeSlot.zero]) := by decide

/-- R156 by hand: keystream bytes 0xFF from cursor 1; the MAC absorbs what DMEM held. -/
theorem test_aeDecrypt :
    (after (exec (.aeDecrypt 0) (stAe aadSlot #v[0x40, 3, 0, 0, 0, 0] setup26))).map
        (fun t => (memRead t 0x40 3, t.ae.map fun x => (x.st, x.mac.msg, x.c.cur))) =
      some ([0x9e, 0x9d, 0x9c], [(.decrypt, [0x61, 0x62, 0x63], .idx 3)]) := by decide +kernel

/-- 95 section 2.6: state before bounds (AE_ENCRYPT, then AE_AAD out of bounds); AE_DECRYPT on a fresh slot. -/
theorem test_state_before_bounds :
    (after (exec (.aeAad 0) (stAe { aadSlot with st := .encrypt } #v[0xFFFF, 3, 0, 0, 0, 0] []))).map (·.code) = some 0x04
    ∧ (after (exec (.aeDecrypt 0) (st #v[0xFFFF, 3, 0, 0, 0, 0] []))).map (·.code) = some 0x03 := by decide

/-- 95 section 2.6, auth only: DMEM and the cipher are unchanged, the data counts as ciphertext (R157). -/
theorem test_aeAuth :
    (after (exec (.aeAuth 0) (stAe aadSlot #v[0x40, 3, 0, 0, 0, 0] setup26))).map
        (fun t => (memRead t 0x40 3, t.ae.map fun x => (x.st, x.mac.msg, x.c))) =
      some ([0x61, 0x62, 0x63], [(.auth, [0x61, 0x62, 0x63], onesCipher)]) := by decide +kernel

/-- 95 section 2.6: the tag of the empty message, and of the AAD "abc" alone in state Aad (R190, R191, R239). -/
theorem test_aeFinal :
    (after (exec (.aeFinal 0) (stAe aadSlot #v[0x200, 0, 0, 0, 0, 0] []))).map
        (fun t => (t.code, memRead t 0x200 16, t.ae)) = some (0x00, emptyTag, [AeSlot.zero])
    ∧ (after (exec (.aeFinal 0)
          (stAe { aadSlot with aadCnt := 3, mac := { aadSlot.mac with msg := [0x61, 0x62, 0x63] } }
            #v[0x200, 0, 0, 0, 0, 0] []))).map (fun t => memRead t 0x200 16) =
        some (hex 16 0x535b38ac257293583fdb90ca4b92827c) := by decide +kernel

/-- 95 section 2.6: the tags after AE_AUTH "abc", and after AAD "abc" and ciphertext 79 da 21. -/
theorem test_aeFinal_data :
    (after (exec (.aeFinal 0)
          (stAe { aadSlot with st := .auth, ctCnt := 3, mac := { aadSlot.mac with msg := [0x61, 0x62, 0x63] } }
            #v[0x200, 0, 0, 0, 0, 0] []))).map (fun t => memRead t 0x200 16) =
        some (hex 16 0x756a029f4fdc1e5d469a09ddab4def7e)
    ∧ (after (exec (.aeFinal 0)
          (stAe { aadSlot with
              st := .encrypt, aadCnt := 3, ctCnt := 3
              mac := { aadSlot.mac with msg := hex 19 0x6162630000000000000000000000000079da21 } }
            #v[0x200, 0, 0, 0, 0, 0] []))).map (fun t => memRead t 0x200 16) =
        some (hex 16 0x4c44d3bc10f5920496e6fe60950d7914) := by decide +kernel

/-- R193, 95 section 2.7: the right tag sets MATCH, a wrong last byte does not; CODE is OK in both. -/
theorem test_aeVerify :
    (after (exec (.aeVerify 0) (stAe aadSlot #v[0x200, 16, 0, 0, 0, 0] [(0x200, emptyTag)]))).map
        (fun t => (t.code, t.res, t.ae)) = some (0x00, 1, [AeSlot.zero])
    ∧ (after (exec (.aeVerify 0) (stAe aadSlot #v[0x200, 16, 0, 0, 0, 0] [(0x200, emptyTag.set 15 0x9c)]))).map
        (fun t => (t.code, t.res, t.ae)) = some (0x00, 0, [AeSlot.zero]) := by decide +kernel

/-- 95 section 2.7: InvalidTagSize before NotInitialized before BoundsError. -/
theorem test_aeVerify_errors :
    (after (exec (.aeVerify 0) (st #v[0x200, 15, 0, 0, 0, 0] []))).map (·.code) = some 0x05
    ∧ (after (exec (.aeVerify 0) (st #v[0xFFF1, 16, 0, 0, 0, 0] []))).map (·.code) = some 0x03
    ∧ (after (exec (.aeVerify 0) (stAe aadSlot #v[0xFFF1, 16, 0, 0, 0, 0] []))).map (fun t => (t.code, t.res, t.ae)) =
      some (0x12, 0, [AeSlot.zero]) := by decide

/-- R158. -/
theorem test_aeDestroy :
    (after (exec (.aeDestroy 0) (stAe aadSlot (Vector.replicate 6 0) []))).map (fun t => (t.code, t.ae)) =
      some (0x00, [AeSlot.zero]) := by decide

/-- V6: the tag over the whole MAC input of R159: the AAD padded, the ciphertext padded, the lengths 12 and 114. -/
theorem test_v6_tag :
    (poly1305 (toVec 32 0 (hex 32 0x7bac2b252db447af09b67a55a4e955840ae1d6731075d9eb2a9375783ed553ff))
      (hex 12 0x50515253c0c1c2c3c4c5c6c7 ++ zeros 4
        ++ hex 114 0xd31a8d34648e60db7b86afbc53ef7ec2a4aded51296e08fea9e2b5a736ee62d63dbea45e8ca9671282fafb69da92728b1a71de0a9e060b2905d6a5b67ecd3b3692ddbd7f2d778b8c9803aee328091b58fab324e4fad675945585808b4831d7bc3ff4def08e4b7a9de576d26586cec64b6116
        ++ zeros 14 ++ bytes64 12 ++ bytes64 114)).toList =
      hex 16 0x1ae10b594f09e26a7e902ecbd0600691 := by decide +kernel

end evaluated

/-! ### The host's side -/

/-- CHK after a failure stops the host and reports the code; the macro SEAL is the list of P1 (30 R93, R95). -/
theorem test_chk_stops :
    (after (step { stHost [.chk, .reset] with code := 0x05 })).map (fun t => (t.host, t.report, t.hostData)) =
      some ([], .stopped 0x05, 0x00000005) := by decide

theorem test_seal_macro :
    sealMacro { x := 0, k := 0, klen := 32, n := 0x20, nlen := 12, aad := some (0x40, 12), p := 0x100, plen := 114, t := 0x200 } =
      [.regWrite 0x00 .word 0, .regWrite 0x04 .word 32, .regWrite 0x08 .word 0x20, .regWrite 0x0C .word 12,
        .regWrite 0x20 .word 0x00000010, .chk,
        .regWrite 0x00 .word 0x40, .regWrite 0x04 .word 12, .regWrite 0x20 .word 0x00000011, .chk,
        .regWrite 0x00 .word 0x100, .regWrite 0x04 .word 114, .regWrite 0x20 .word 0x00000012, .chk,
        .regWrite 0x00 .word 0x200, .regWrite 0x20 .word 0x00000015, .chk] := by decide

/-! ### Witnesses: for every obligation with hypotheses, values that meet all of them, one per clause at a boundary -/

/-- A block with two cipher slots and one context in state Aad, and host actions pending. -/
def liveBlock : State :=
  { stAe aadSlot #v[0x40, 3, 0, 0, 0, 0] setup26 with sc := [Cipher.zero, onesCipher], host := [.dmemRead 0x40] }

theorem witness_decodeOfEncode : wellFormed 1 256 (.aeDestroy 255) = true ∧ wellFormed 1 1 .derive = true := by decide

theorem witness_encodeOfDecode : decode 1 256 0x0000FF17 = .cmd (.aeDestroy 255) ∧ decode 1 1 0x00000004 = .cmd .derive := by
  decide

theorem witness_reservedWordsAreIllegal :
    [0x00010010, 0x80000012, 0x00000000, 0x00000005, 0x0000000F, 0x00000018, 0x000000FF, 0x00000104].all (fun w =>
      decide (decode liveBlock.sc.length liveBlock.ae.length w = .illegal)) = true := by decide

/-- The first and last opcode of each group, with the last slot present and the first absent. -/
theorem witness_slotField_sc :
    [0x00000101, 0x00000103, 0x00000201, 0x00000203].all (fun w => decide (rsvOf w = 0 ∧ 0x01 ≤ (opcOf w).toNat
      ∧ (opcOf w).toNat ≤ 0x03)) = true
    ∧ (slotOf 0x00000101).toNat < liveBlock.sc.length ∧ ¬ (slotOf 0x00000201).toNat < liveBlock.sc.length := by decide

theorem witness_slotField_ae :
    [0x00000010, 0x00000017, 0x00000110, 0x00000117].all (fun w => decide (rsvOf w = 0 ∧ 0x10 ≤ (opcOf w).toNat
      ∧ (opcOf w).toNat ≤ 0x17)) = true
    ∧ (slotOf 0x00000017).toNat < liveBlock.ae.length ∧ ¬ (slotOf 0x00000117).toNat < liveBlock.ae.length := by decide

theorem witness_slotField_derive :
    rsvOf 0x00000104 = 0 ∧ opcOf 0x00000104 = 0x04 ∧ slotOf 0x00000104 ≠ 0 ∧ opcOf 0x00000004 = 0x04 ∧ slotOf 0x00000004 = 0 := by
  decide

theorem witness_stepRunsDecodedCommand :
    let s := { liveBlock with host := [cmdWrite 0x00000011] }
    decode s.sc.length s.ae.length 0x00000011 = .cmd (.aeAad 0) ∧ s.host = [cmdWrite 0x00000011] := by decide

theorem witness_quarterRoundWords :
    (0 : Fin 16) ≠ 5 ∧ (0 : Fin 16) ≠ 10 ∧ (0 : Fin 16) ≠ 15 ∧ (5 : Fin 16) ≠ 10 ∧ (5 : Fin 16) ≠ 15 ∧ (10 : Fin 16) ≠ 15
    ∧ (1 : Fin 16) ≠ 0 ∧ (1 : Fin 16) ≠ 5 ∧ (1 : Fin 16) ≠ 10 ∧ (1 : Fin 16) ≠ 15 := by decide

theorem witness_quarterRoundsCommute : ([0, 4, 8, 12, 3, 7, 11, 15] : List (Fin 16)).Nodup := by decide

theorem witness_counterIncrement :
    let w : Vector Word 16 := Vector.replicate 16 0xFFFFFFFF
    w[12] = 0xFFFFFFFF ∧ (14 : Fin 16) ≠ 12 ∧ (14 : Fin 16) ≠ 13 := by decide

theorem witness_keystream :
    (zeros 65)[0]? = some 0 ∧ (zeros 65)[63]? = some 0 ∧ (zeros 65)[64]? = some 0 ∧ zeros 65 ≠ [] := by decide

theorem witness_extendedNonce : 24 ≤ (zeros 24).length ∧ (zeros 23).length < 24 := by decide

theorem witness_reducedNonce :
    nonceOk (zeros 8).length = true ∧ nonceOk (zeros 12).length = true ∧ nonceOk (zeros 16).length = true
    ∧ nonceOk (zeros 24).length = true ∧ nonceOk (zeros 64).length = true ∧ 24 ≤ (zeros 24).length := by decide

theorem witness_nonceLengthRule : nonceOk 16 = true ∧ (16 : Nat) < 24 ∧ nonceOk 24 = true := by decide

theorem witness_cipherInitWords :
    ((zeros 16).length = 16 ∨ (zeros 16).length = 32) ∧ ((zeros 32).length = 16 ∨ (zeros 32).length = 32)
    ∧ [8, 12, 16].all (fun n => decide ((zeros n).length = 8 ∨ (zeros n).length = 12 ∨ (zeros n).length = 16)) = true := by
  decide

theorem witness_paddingLength : (16 : Nat) % 16 = 0 := by decide

theorem witness_polyTag : ∀ c ∈ [range 0 16, zeros 16], c.length = 16 := by decide

theorem witness_memoryReads :
    0 < 3 ∧ 2 < 3 ∧ (range 0 3)[2]? = some 2 ∧ (0x3F < 0x40 ∨ 0x40 + (range 0 3).length ≤ 0x3F)
    ∧ (0x43 < 0x40 ∨ 0x40 + (range 0 3).length ≤ 0x43) := by decide

/-- The largest counter of each layout and regions that end exactly at DMEM_BYTES (95 section 2.3). -/
theorem witness_scInitCompletes :
    let s := st #v[0xFFE0, 32, 0xFFF8, 8, 0xFFFFFFFF, 0x001FFFFF] []
    let u := st #v[0xFFF0, 16, 0xFFF4, 12, 0xFFFFFFFF, 0] []
    (0#8).toNat < s.sc.length ∧ argNat s 1 = 32 ∧ nonceOk (argNat s 3) = true ∧ ctrOperand s < 2 ^ 53
    ∧ effLen (argNat s 3) ≠ 12 ∧ argNat s 0 + argNat s 1 ≤ s.par.dmemBytes ∧ argNat s 2 + argNat s 3 ≤ s.par.dmemBytes
    ∧ (0#8).toNat < u.sc.length ∧ argNat u 1 = 16 ∧ nonceOk (argNat u 3) = true ∧ ctrOperand u < 2 ^ 53
    ∧ effLen (argNat u 3) = 12 ∧ ctrOperand u < 2 ^ 32 ∧ argNat u 0 + argNat u 1 ≤ u.par.dmemBytes
    ∧ argNat u 2 + argNat u 3 ≤ u.par.dmemBytes := by decide

theorem witness_scXorCompletes :
    let s := stSc onesCipher #v[0xFFF0, 16, 0, 0, 0, 0] []
    s.sc[(0#8).toNat]? = some onesCipher ∧ onesCipher.cur = .idx 0 ∧ argNat s 0 + argNat s 1 ≤ s.par.dmemBytes := by decide

theorem witness_destroyCompletes : (1#8).toNat < liveBlock.sc.length ∧ (0#8).toNat < liveBlock.ae.length := by decide

theorem witness_deriveCompletes :
    let s := st #v[0xFFF0, 16, 0xFFF0, 0xFFE0, 0, 0] []
    (argNat s 1 = 16 ∨ argNat s 1 = 32) ∧ argNat s 0 + argNat s 1 ≤ s.par.dmemBytes ∧ argNat s 2 + 16 ≤ s.par.dmemBytes
    ∧ argNat s 3 + 32 ≤ s.par.dmemBytes := by decide

theorem witness_aeInitCompletes :
    let s := stAe aadSlot #v[0xFFE0, 32, 0xFFE8, 24, 0, 0] []
    (0#8).toNat < s.ae.length ∧ (argNat s 1 = 16 ∨ argNat s 1 = 32) ∧ nonceOk (argNat s 3) = true
    ∧ argNat s 0 + argNat s 1 ≤ s.par.dmemBytes ∧ argNat s 2 + argNat s 3 ≤ s.par.dmemBytes := by decide

theorem witness_aeAadCompletes :
    let x := { aadSlot with aadCnt := 9007199254740982 }
    let s := stAe x #v[0xFFF7, 9, 0, 0, 0, 0] []
    s.ae[(0#8).toNat]? = some x ∧ x.st = .aad ∧ argNat s 0 + argNat s 1 ≤ s.par.dmemBytes
    ∧ x.aadCnt.toNat + argNat s 1 < 2 ^ 53 := by decide

theorem witness_aeEncryptCompletes :
    let s := stAe { aadSlot with st := .encrypt } #v[0xFFF0, 16, 0, 0, 0, 0] []
    s.ae[(0#8).toNat]? = some { aadSlot with st := .encrypt } ∧ liveBlock.ae[(0#8).toNat]? = some aadSlot ∧ aadSlot.st = .aad
    ∧ aadSlot.c.cur = .idx 0 ∧ argNat s 0 + argNat s 1 ≤ s.par.dmemBytes ∧ argNat liveBlock 0 + argNat liveBlock 1 ≤ liveBlock.par.dmemBytes
    ∧ aadSlot.ctCnt.toNat + argNat s 1 < 2 ^ 53 := by decide

theorem witness_aeDecryptCompletes :
    let x := { aadSlot with st := .decrypt, ctCnt := 9007199254740975 }
    let s := stAe x #v[0xFFF0, 16, 0, 0, 0, 0] []
    s.ae[(0#8).toNat]? = some x ∧ (x.st = .aad ∨ x.st = .decrypt) ∧ x.c.cur = .idx 0
    ∧ argNat s 0 + argNat s 1 ≤ s.par.dmemBytes ∧ x.ctCnt.toNat + argNat s 1 < 2 ^ 53 := by decide

theorem witness_aeAuthCompletes :
    let x := { aadSlot with st := .auth }
    let s := stAe x #v[0xFFF0, 16, 0, 0, 0, 0] []
    s.ae[(0#8).toNat]? = some x ∧ (x.st = .aad ∨ x.st = .auth) ∧ argNat s 0 + argNat s 1 ≤ s.par.dmemBytes
    ∧ x.ctCnt.toNat + argNat s 1 < 2 ^ 53 := by decide

theorem witness_aeFinalCompletes :
    let s := stAe aadSlot #v[0xFFF0, 0, 0, 0, 0, 0] []
    s.ae[(0#8).toNat]? = some aadSlot ∧ live aadSlot.st = true ∧ argNat s 0 + 16 ≤ s.par.dmemBytes := by decide

theorem witness_aeVerifyCompletes :
    let s := stAe aadSlot #v[0xFFF0, 16, 0, 0, 0, 0] []
    s.ae[(0#8).toNat]? = some aadSlot ∧ argNat s 1 = 16 ∧ live aadSlot.st = true
    ∧ argNat s 0 + 16 ≤ s.par.dmemBytes := by decide

theorem witness_liveSlotWithoutCipherStops :
    let x := { aadSlot with c := Cipher.zero }
    let s := stAe x #v[0xFFF0, 16, 0, 0, 0, 0] []
    s.ae[(0#8).toNat]? = some x ∧ x.c.cur = .uninit ∧ x.st = .aad ∧ argNat s 0 + argNat s 1 ≤ s.par.dmemBytes
    ∧ x.ctCnt.toNat + argNat s 1 < 2 ^ 53 := by decide

/-- A reserved word, an absent slot, a command that fails and one that succeeds. -/
theorem witness_firstFailure :
    (∃ t, issue 0x00000018 liveBlock = .next t) ∧ decode liveBlock.sc.length liveBlock.ae.length 0x00000018 = .illegal
    ∧ (∃ t, issue 0x00000110 liveBlock = .next t) ∧ decode liveBlock.sc.length liveBlock.ae.length 0x00000110 = .badSlot
    ∧ (∃ t, issue 0x00000016 liveBlock = .next t ∧ t.code ≠ 0)
    ∧ decode liveBlock.sc.length liveBlock.ae.length 0x00000016 = .cmd (.aeVerify 0)
    ∧ (∃ t, issue 0x00000011 liveBlock = .next t ∧ t.code = 0)
    ∧ decode liveBlock.sc.length liveBlock.ae.length 0x00000011 = .cmd (.aeAad 0) :=
  ⟨⟨_, rfl⟩, by decide, ⟨_, rfl⟩, by decide, ⟨_, rfl, by decide⟩, by decide, ⟨_, rfl, by decide⟩, by decide⟩

/-- A command that completes, for CodesOfEachCommand, RegisterFrame, SlotFrame and MemoryFrame. -/
theorem witness_command : ∃ t, exec (.aeAad 0) liveBlock = .next t := ⟨_, rfl⟩

/-- A command of each storing form that completes, for MemoryFrame and SlotFrame, with an address on either side of what
it stores. -/
theorem witness_storing_commands :
    (∃ t, exec (.aeFinal 0) liveBlock = .next t) ∧ (∃ t, exec (.aeEncrypt 0) liveBlock = .next t) ∧ (∃ t, exec .derive liveBlock = .next t)
    ∧ 0x3F < argNat liveBlock 0 ∧ argNat liveBlock 0 + argNat liveBlock 1 ≤ 0x43 ∧ argNat liveBlock 0 + 16 ≤ 0x50
    ∧ slotNamed (.aeFinal 0) ≠ .sc 1 ∧ slotNamed (.aeFinal 0) ≠ .ae 1 :=
  ⟨⟨_, rfl⟩, ⟨_, rfl⟩, ⟨_, rfl⟩, by decide, by decide, by decide, by decide, by decide⟩

/-- Failures with a slot zeroized, with an absent slot, and of DERIVE. -/
theorem witness_failureZeroizes :
    (∃ t, exec (.aeVerify 0) liveBlock = .next t ∧ t.code ≠ 0 ∧ t.code ≠ 0x11)
    ∧ (∃ t, exec (.scXor 2) liveBlock = .next t ∧ t.code = 0x11) ∧ ∃ t, exec .derive liveBlock = .next t ∧ t.code ≠ 0 :=
  ⟨⟨_, rfl, by decide, by decide⟩, ⟨_, rfl, by decide⟩, ⟨_, rfl, by decide⟩⟩

/-- R35 in a state that is not the reset state: a context in use (EveryCommandWordCompletes, OnlyTheHostCanGetStuck). -/
theorem witness_inv : liveBlock.Inv where
  codeLegal := by unfold legalCode; decide
  idle := rfl
  resBits := .inl rfl
  scCount := by decide
  aeCount := by decide
  memSize := by decide
  memForm := Memory.wf_writeBytes (Memory.wf_writeBytes (Memory.wf_writeBytes List.Pairwise.nil _ _) _ _) _ _
  memRange := by decide +kernel
  ciphers := by
    intro c hc h
    rcases List.mem_cons.1 hc with rfl | hc
    · rfl
    · simp only [List.mem_singleton] at hc
      subst hc
      exact absurd h (by decide)
  contexts := by
    intro x hx
    obtain rfl := List.mem_singleton.1 hx
    exact
      { zeroized := fun h => absurd h (by decide), held := fun _ => rfl, cipher := fun _ => by decide
        macAct := fun _ => rfl, macKey := fun _ => by decide +kernel, aadBound := by decide, ctBound := by decide
        message := ⟨rfl, rfl⟩ }

theorem witness_stepKeepsInvariant : liveBlock.Inv ∧ ∃ t, step liveBlock = .next t := ⟨witness_inv, _, rfl⟩

/-- A success, an InvalidState failure, and AE_VERIFY with a wrong tag length. -/
theorem witness_aeadTransitionTable :
    let s := { liveBlock with ae := [{ aadSlot with st := .decrypt }] }
    aeSlotOf (.aeAad 0) = some 0 ∧ liveBlock.ae[(0#8).toNat]? = some aadSlot ∧ aeTable (.aeAad 0) aadSlot.st = .ok .aad
    ∧ (∃ t, exec (.aeAad 0) liveBlock = .next t ∧ t.code = 0)
    ∧ s.ae[(0#8).toNat]? = some { aadSlot with st := .decrypt } ∧ aeTable (.aeAad 0) .decrypt = .error .invalidState
    ∧ (∃ t, exec (.aeAad 0) s = .next t ∧ t.code ≠ 0)
    ∧ aeSlotOf (.aeVerify 0) = some 0 ∧ ∃ t, exec (.aeVerify 0) liveBlock = .next t ∧ t.code = 0x05 :=
  ⟨rfl, by decide, rfl, ⟨_, rfl, by decide⟩, by decide, rfl, ⟨_, rfl, by decide⟩, rfl, ⟨_, rfl, by decide⟩⟩

theorem witness_macInputFraming :
    let x := { aadSlot with aadCnt := 3, mac := { aadSlot.mac with msg := range 0 3 } }
    let y := { aadSlot with
      st := .encrypt, aadCnt := 3, ctCnt := 2, mac := { aadSlot.mac with msg := range 0 3 ++ zeros 13 ++ range 9 2 } }
    x.aadCnt.toNat = (range 0 3).length ∧ x.ctCnt.toNat = ([] : List Byte).length ∧ x.st = .aad ∧ x.mac.msg = range 0 3
    ∧ y.aadCnt.toNat = (range 0 3).length ∧ y.ctCnt.toNat = (range 9 2).length ∧ y.st = .encrypt
    ∧ y.mac.msg = range 0 3 ++ zeros (pad16 (range 0 3).length) ++ range 9 2 := by decide

/-- Two states that differ in a slot the command does not name and in CODE. -/
theorem witness_slotsShareNothing :
    let u := { liveBlock with sc := [onesCipher, Cipher.zero], code := 0x05 }
    liveBlock.args = u.args ∧ liveBlock.mem = u.mem ∧ liveBlock.par = u.par ∧ liveBlock.sc.length = u.sc.length ∧ liveBlock.ae.length = u.ae.length
    ∧ liveBlock.sc ≠ u.sc ∧ liveBlock.ae[(0#8).toNat]? = u.ae[(0#8).toNat]? ∧ slotNamed (.aeAad 0) = .ae 0
    ∧ ∃ t, exec (.aeAad 0) liveBlock = .next t :=
  ⟨rfl, rfl, rfl, rfl, rfl, by decide, rfl, rfl, _, rfl⟩

theorem witness_hostReadsNoSlot :
    (∃ t, regReadAct 0xFC .word liveBlock = .next t) ∧ ∃ t, dmemReadAct 0xFFFF liveBlock = .next t := ⟨⟨_, rfl⟩, ⟨_, rfl⟩⟩

/-- Two successful AE_AUTH commands over adjacent regions. -/
theorem witness_splitDataCommands :
    (0xFFF0#32).toNat + (9#32).toNat + (7#32).toNat < 2 ^ 32
    ∧ ∃ t, exec (.aeAuth 0) (setArg 0 0xFFF0 (setArg 1 9 liveBlock)) = .next t ∧ t.code = 0
      ∧ ∃ u, exec (.aeAuth 0) (setArg 0 (0xFFF0 + 9) (setArg 1 7 t)) = .next u ∧ u.code = 0 :=
  ⟨by decide, _, rfl, by decide, _, rfl, by decide⟩

theorem witness_decryptUndoesEncrypt :
    liveBlock.ae[(0#8).toNat]? = some aadSlot ∧ aadSlot.st = .aad
    ∧ ∃ t, exec (.aeEncrypt 0) liveBlock = .next t ∧ t.code = 0 := ⟨by decide, rfl, _, rfl, by decide⟩

/-- Each offset the clauses name, the ends of the reserved ranges, and three accesses that have no move. -/
theorem witness_hostRegister :
    [0x00, 0x14, 0x18, 0x1C, 0x20, 0x24, 0x28, 0x2C, 0xFC].all (fun off => decide (off % 4 = 0 ∧ off ≤ 0xFF)) = true
    ∧ ¬ (AccessWidth.word = .word ∧ 0x100 % 4 = 0 ∧ 0x100 ≤ 0xFF)
    ∧ ¬ (AccessWidth.word = .word ∧ 0x22 % 4 = 0 ∧ 0x22 ≤ 0xFF) ∧ ¬ (AccessWidth.half = .word ∧ 0x20 % 4 = 0 ∧ 0x20 ≤ 0xFF)
    ∧ (stHost [.regRead 0xFC .word]).host = .regRead 0xFC .word :: []
    ∧ (stHost [.regWrite 0x14 .word 7]).host = .regWrite 0x14 .word 7 :: [] := by decide

theorem witness_hostDmemPort :
    (stHost [.dmemRead 0xFFFF]).host = .dmemRead 0xFFFF :: [] ∧ (stHost [.dmemWrite 0xFFFF 7]).host = .dmemWrite 0xFFFF 7 :: []
    ∧ 0xFFFF < (stHost []).par.dmemBytes ∧ (stHost [.dmemRead 0x10000]).host = .dmemRead 0x10000 :: []
    ∧ (stHost []).par.dmemBytes ≤ 0x10000 := by decide

theorem witness_blockReset : { liveBlock with host := [.reset] }.host = .reset :: [] := rfl

/-- An abandoned command that succeeds, with the bytes on either side of its region, one that fails, and a word that is
no command. -/
theorem witness_abandoned :
    let s := { liveBlock with host := [.cmdThenReset 0x00000012] }
    s.host = .cmdThenReset 0x00000012 :: [] ∧ decode s.sc.length s.ae.length 0x00000012 = .cmd (.aeEncrypt 0)
    ∧ outputRegion (.aeEncrypt 0) s = (0x40, 3) ∧ 0x3F < 0x40 ∧ 0x40 + 3 ≤ 0x43
    ∧ { liveBlock with host := [.cmdThenReset 0x00000018] }.host = .cmdThenReset 0x00000018 :: []
    ∧ decode s.sc.length s.ae.length 0x00000018 = .illegal
    ∧ { liveBlock with host := [.cmdThenReset 0x00000004] }.host = .cmdThenReset 0x00000004 :: []
    ∧ decode s.sc.length s.ae.length 0x00000004 = .cmd .derive
    ∧ ∃ u, exec .derive { liveBlock with host := [] } = .next u ∧ u.code ≠ 0 :=
  ⟨rfl, by decide, by decide, by decide, by decide, rfl, by decide, rfl, by decide, _, rfl, by decide⟩

theorem witness_byteStrings :
    12 + 4 ≤ (zeros 16).length ∧ ((zeros 16).length = 16 ∨ (zeros 16).length = 32)
    ∧ ((zeros 32).length = 16 ∨ (zeros 32).length = 32) ∧ (zeros 16).length = 16 ∧ 9007199254740991 < 2 ^ 53 := by decide

theorem witness_freshSlots :
    let s := st #v[0, 16, 0, 0, 0, 0] []
    s.sc[(0#8).toNat]? = some Cipher.zero ∧ s.ae[(0#8).toNat]? = some AeSlot.zero ∧ argNat s 1 = 16
    ∧ (st #v[0, 15, 0, 0, 0, 0] []).ae[(0#8).toNat]? = some AeSlot.zero ∧ argNat (st #v[0, 15, 0, 0, 0, 0] []) 1 ≠ 16 := by
  decide

theorem witness_busyRead :
    (stHost [.pollBusy, cmdWrite 4, .chk]).host = .pollBusy :: cmdWrite 4 :: [.chk]
    ∧ (stHost [.pollBusy, .chk]).host = .pollBusy :: [.chk] ∧ commandNext [.chk] = false := by decide

theorem witness_checkStops :
    (stHost [.chk, .reset]).host = .chk :: [.reset] ∧ (stHost [.chk]).code = 0
    ∧ { stHost [.chk] with code := 0x14 }.host = .chk :: [] ∧ { stHost [.chk] with code := 0x14 }.code ≠ 0 := by decide

theorem witness_safeMacroHostActions :
    (stHost [.dmemCopy 0 0xFFFF]).host = .dmemCopy 0 0xFFFF :: [] ∧ 0xFFFF < (stHost []).par.dmemBytes
    ∧ (stHost [.wipeUnlessMatch 0xFFF0 16]).host = .wipeUnlessMatch 0xFFF0 16 :: []
    ∧ 0xFFF0 + 16 ≤ (stHost []).par.dmemBytes ∧ (stHost []).res.getLsbD 0 = false
    ∧ { stHost [.wipeUnlessMatch 0xFFF0 16] with res := 1 }.res.getLsbD 0 = true := by decide

theorem witness_idle : State.reset.host = [] := rfl

end Sys2Proof.Tests
end

section
/-! What a command can answer, said once for all twelve: an absent slot, a failure of its checks, or its result. -/
namespace Sys2Proof.Machine

/-! ### Operands, regions and checks -/

theorem regionOk_iff {s : State} {a n : Nat} : regionOk s a n = true ↔ a + n ≤ s.par.dmemBytes := by
  simp [regionOk]

@[simp] theorem Memory.readBytes_length (m : List Host.Cell) (a n : Nat) : (Memory.readBytes m a n).length = n := by
  induction n generalizing a with
  | zero => rfl
  | succ n ih => simp [Memory.readBytes, ih]

@[simp] theorem memRead_length (s : State) (a n : Nat) : (memRead s a n).length = n :=
  Memory.readBytes_length _ _ _

/-- MemWrite changes no byte outside its region (R64). -/
theorem Memory.read_writeBytes_outside (m : List Host.Cell) {a b : Nat} {bs : List Byte}
    (h : b < a ∨ a + bs.length ≤ b) : Memory.read (Memory.writeBytes m a bs) b = Memory.read m b := by
  induction bs generalizing m a with
  | nil => rfl
  | cons v bs ih =>
    rw [List.length_cons] at h
    exact (ih _ (by omega)).trans (Memory.read_write_other _ _ _ _ (by omega))

/-- The code of a failed check list is one of those listed. -/
theorem firstFailure_code {l : List (Bool × Code)} {c : Code} (h : firstFailure l = some c) : c ∈ l.map Prod.snd :=
  List.mem_map_of_mem (firstFailure_mem h)

theorem firstFailure_nil : firstFailure [] = none := rfl

/-- A check list passes when its first condition does not hold and the rest passes. -/
theorem firstFailure_cons_eq_none {b : Bool} {c : Code} {l : List (Bool × Code)} :
    firstFailure ((b, c) :: l) = none ↔ b = false ∧ firstFailure l = none := by
  cases b <;> simp [firstFailure]

theorem enterCheck_eq_none {mode : AeState} {x : AeSlot} {s : State} :
    enterCheck mode x s = none ↔ live x.st = true ∧ (x.st = .aad ∨ x.st = mode)
      ∧ argNat s 0 + argNat s 1 ≤ s.par.dmemBytes ∧ x.ctCnt.toNat + argNat s 1 < 2 ^ 53 := by
  simp [enterCheck, firstFailure_cons_eq_none, firstFailure_nil, regionOk_iff, or_iff_not_imp_left]

theorem aeAadCheck_eq_none {x : AeSlot} {s : State} :
    aeAadCheck x s = none ↔ live x.st = true ∧ x.st = .aad
      ∧ argNat s 0 + argNat s 1 ≤ s.par.dmemBytes ∧ x.aadCnt.toNat + argNat s 1 < 2 ^ 53 := by
  simp [aeAadCheck, firstFailure_cons_eq_none, firstFailure_nil, regionOk_iff]

theorem aeFinalCheck_eq_none {x : AeSlot} {s : State} :
    aeFinalCheck x s = none ↔ live x.st = true ∧ argNat s 0 + 16 ≤ s.par.dmemBytes := by
  simp [aeFinalCheck, firstFailure_cons_eq_none, firstFailure_nil, regionOk_iff]

theorem deriveCheck_eq_none {s : State} :
    deriveCheck s = none ↔ keySizeOk (argNat s 1) = true ∧ argNat s 0 + argNat s 1 ≤ s.par.dmemBytes
      ∧ argNat s 2 + 16 ≤ s.par.dmemBytes ∧ argNat s 3 + 32 ≤ s.par.dmemBytes := by
  simp [deriveCheck, firstFailure_cons_eq_none, firstFailure_nil, regionOk_iff, and_assoc]

/-- RES holds no bit but MATCH (R25). -/
theorem ctEq16_zero_or_one (t e : Vector Byte 16) : ctEq16 t e = 0 ∨ ctEq16 t e = 1 := by
  unfold ctEq16
  generalize (ctDiff t e).zeroExtend 32 - 1 = v
  rw [show (1 : Word) = 1#32 from rfl, BitVec.and_one_eq_setWidth_ofBool_getLsbD]
  cases (v >>> 8).getLsbD 0 <;> decide

/-! ### What R35 asks of a slot -/

theorem Cipher.inv_zero : CipherInv Cipher.zero := fun _ => rfl

theorem Cipher.inv_of_cur_ne {c : Cipher} (h : c.cur ≠ .uninit) : CipherInv c := fun hu => absurd hu h

theorem ksXor_cur_ne_uninit (c : Cipher) (i : Fin 64) (bs : List Byte) : (ksXor c i bs).1.cur ≠ .uninit := by
  obtain ⟨j, hj⟩ := ksXor_cur c i bs
  simp [hj]

theorem AeSlot.inv_zero : AeInv AeSlot.zero where
  zeroized _ := rfl
  held h := absurd rfl h
  cipher h := absurd rfl h
  macAct h := absurd rfl h
  macKey h := absurd rfl h
  aadBound := by decide
  ctBound := by decide
  message := trivial

theorem ne_uninitialized_of_live {st : AeState} (h : live st = true) : st ≠ .uninitialized := by
  rintro rfl
  cases h

/-- AE_INIT leaves a context that meets R35, whatever the slot held. -/
theorem aeStart_inv (key nonce : List Byte) : AeInv (aeStart key nonce) where
  zeroized h := nomatch h
  held _ := rfl
  cipher _ := ksXor_cur_ne_uninit _ _ _
  macAct _ := rfl
  macKey _ := by
    simp only [aeStart, macInit]
    rw [toVec_toList (by simp [zeros_length]), toVec_toList (by simp [zeros_length])]
  aadBound := by simp [aeStart]
  ctBound := by simp [aeStart]
  message := by simp [MsgInv, aeStart, macInit]

/-- A byte counter that stays below 2^53 does not wrap. -/
theorem counter_add_toNat {x : BitVec 64} {n : Nat} (h : x.toNat + n < 2 ^ 53) :
    (x + BitVec.ofNat 64 n).toNat = x.toNat + n := by
  rw [BitVec.toNat_add, BitVec.toNat_ofNat]
  omega

/-- AE_AAD keeps R35: the AAD grows by the bytes counted. -/
theorem aeAad_inv {x : AeSlot} {s : State} {bs : List Byte} (hx : AeInv x) (hc : aeAadCheck x s = none)
    (hbs : bs.length = argNat s 1) :
    AeInv { x with mac := macUpdate x.mac bs, aadCnt := x.aadCnt + BitVec.ofNat 64 (argNat s 1) } := by
  obtain ⟨hlive, haad, -, hlimit⟩ := aeAadCheck_eq_none.1 hc
  have hu := ne_uninitialized_of_live hlive
  have hmsg := hx.message
  simp only [MsgInv, haad] at hmsg
  exact {
    zeroized := fun h => absurd h hu
    held := fun _ => hlive
    cipher := hx.cipher
    macAct := hx.macAct
    macKey := hx.macKey
    aadBound := (counter_add_toNat hlimit).trans_lt hlimit
    ctBound := hx.ctBound
    message := by simp [MsgInv, haad, macUpdate, hmsg, hbs, counter_add_toNat hlimit] }

/-- The three modes a data command locks (R154). -/
def DataMode (st : AeState) : Prop := st = .encrypt ∨ st = .decrypt ∨ st = .auth

/-- R35's clause on MAC.MSG in a data mode. -/
theorem msgInv_of_dataMode {x : AeSlot} (h : DataMode x.st) :
    MsgInv x ↔ ∃ aad m, x.mac.msg = aad ++ zeros (pad16 x.aadCnt.toNat) ++ m
      ∧ aad.length = x.aadCnt.toNat ∧ m.length = x.ctCnt.toNat := by
  rcases h with h | h | h <;> simp only [MsgInv, h]

/-- ENTER keeps R35: from state Aad it pads the AAD and locks the mode, with no data byte counted yet. -/
theorem enterMode_inv {mode : AeState} {x : AeSlot} (hm : DataMode mode) (hst : x.st = .aad ∨ x.st = mode)
    (hx : AeInv x) : AeInv (enterMode mode x) ∧ (enterMode mode x).st = mode := by
  unfold enterMode
  split
  next haad =>
    have hu : x.st ≠ .uninitialized := by simp [haad]
    obtain ⟨hlen, hct⟩ : x.mac.msg.length = x.aadCnt.toNat ∧ x.ctCnt = 0 := by
      simpa only [MsgInv, haad] using hx.message
    refine ⟨?_, rfl⟩
    exact {
      zeroized := fun h => by rcases hm with rfl | rfl | rfl <;> cases h
      held := fun _ => by rcases hm with rfl | rfl | rfl <;> rfl
      cipher := fun _ => hx.cipher hu
      macAct := fun _ => hx.macAct hu
      macKey := fun _ => hx.macKey hu
      aadBound := hx.aadBound
      ctBound := hx.ctBound
      message := (msgInv_of_dataMode hm).2 ⟨x.mac.msg, [], by simp [macUpdate], hlen, by simp [hct]⟩ }
  next haad => exact ⟨hx, hst.resolve_left haad⟩

/-- A data command in its mode keeps R35: the stream grows by the bytes counted. -/
theorem absorb_inv {x : AeSlot} {c : Cipher} {ct : List Byte} {n : Nat} (hm : DataMode x.st) (hx : AeInv x)
    (hc : c.cur ≠ .uninit) (hct : ct.length = n) (hlimit : x.ctCnt.toNat + n < 2 ^ 53) :
    AeInv (absorb x c ct n) := by
  have hu : x.st ≠ .uninitialized := by rcases hm with h | h | h <;> simp [h]
  obtain ⟨aad, m, hmsg, haad, hmlen⟩ := (msgInv_of_dataMode hm).1 hx.message
  exact {
    zeroized := fun h => absurd h hu
    held := hx.held
    cipher := fun _ => hc
    macAct := hx.macAct
    macKey := hx.macKey
    aadBound := hx.aadBound
    ctBound := (counter_add_toNat hlimit).trans_lt hlimit
    message := (msgInv_of_dataMode (x := absorb x c ct n) hm).2
      ⟨aad, m ++ ct, by simp [absorb, macUpdate, hmsg], haad, by
        simp [absorb, hmlen, hct, counter_add_toNat hlimit]⟩ }

@[simp] theorem enterMode_ctCnt (mode : AeState) (x : AeSlot) : (enterMode mode x).ctCnt = x.ctCnt := by
  unfold enterMode
  split <;> rfl

@[simp] theorem enterMode_c (mode : AeState) (x : AeSlot) : (enterMode mode x).c = x.c := by
  unfold enterMode
  split <;> rfl

/-- What a data command that passes ENTER's checks leaves in its slot meets R35. -/
theorem dataCommand_inv {mode : AeState} {x : AeSlot} {s : State} {c : Cipher} {ct : List Byte} (hm : DataMode mode)
    (hx : AeInv x) (hcheck : enterCheck mode x s = none) (hc : c.cur ≠ .uninit) (hct : ct.length = argNat s 1) :
    AeInv (absorb (enterMode mode x) c ct (argNat s 1)) := by
  obtain ⟨-, hst, -, hlimit⟩ := enterCheck_eq_none.1 hcheck
  obtain ⟨hinv, hmode⟩ := enterMode_inv hm hst hx
  exact absorb_inv (hmode.symm ▸ hm) hinv hc hct (by simpa using hlimit)

/-! ### What a command can answer -/

/-- The slot a command names gets c or x, by its kind. -/
def putSlot (n : SlotName) (c : Cipher) (x : AeSlot) (s : State) : State :=
  match n with
  | .none => s
  | .sc i => setSc i c s
  | .ae i => setAe i x s

section putSlot
variable (n : SlotName) (c : Cipher) (x : AeSlot) (s : State)
@[simp] theorem putSlot_args : (putSlot n c x s).args = s.args := by cases n <;> rfl
@[simp] theorem putSlot_mem : (putSlot n c x s).mem = s.mem := by cases n <;> rfl
@[simp] theorem putSlot_par : (putSlot n c x s).par = s.par := by cases n <;> rfl
@[simp] theorem putSlot_draws : (putSlot n c x s).draws = s.draws := by cases n <;> rfl
@[simp] theorem putSlot_host : (putSlot n c x s).host = s.host := by cases n <;> rfl
@[simp] theorem putSlot_hostData : (putSlot n c x s).hostData = s.hostData := by cases n <;> rfl
@[simp] theorem putSlot_report : (putSlot n c x s).report = s.report := by cases n <;> rfl
@[simp] theorem putSlot_sc_length : (putSlot n c x s).sc.length = s.sc.length := by cases n <;> simp [putSlot]
@[simp] theorem putSlot_ae_length : (putSlot n c x s).ae.length = s.ae.length := by cases n <;> simp [putSlot]
end putSlot

/-- Zeroizing (R36) is one such write. -/
theorem zeroize_eq_putSlot (n : SlotName) (s : State) : zeroize n s = putSlot n Cipher.zero AeSlot.zero s := by
  cases n <;> rfl

theorem putSlot_sc_other {n : SlotName} {k : Nat} (h : n ≠ .sc k) (c : Cipher) (x : AeSlot) (s : State) :
    (putSlot n c x s).sc[k]? = s.sc[k]? := by
  cases n with
  | none => rfl
  | sc i => exact List.getElem?_set_ne (fun hik => h (congrArg _ hik))
  | ae i => rfl

theorem putSlot_ae_other {n : SlotName} {k : Nat} (h : n ≠ .ae k) (c : Cipher) (x : AeSlot) (s : State) :
    (putSlot n c x s).ae[k]? = s.ae[k]? := by
  cases n with
  | none => rfl
  | sc i => rfl
  | ae i => exact List.getElem?_set_ne (fun hik => h (congrArg _ hik))

/-- Everything a command i can answer from s: the slot it names is absent; one of its checks fails; or it completes, with
a value in the slot it names and bytes in its output region. A slot value written meets R35 if the slots did before. -/
inductive Answer (i : Instr) (s : State) : State → Prop
  | absent : Answer i s (fail .none .invalidSlot s)
  | fails (code : Code) (listed : code ∈ codesOf i) : Answer i s (fail (slotNamed i) code s)
  | completes (r : Word) (bs : List Byte) (c : Cipher) (x : AeSlot)
      (bit : r = 0 ∨ r = 1) (matchOnly : (∀ a, i ≠ .aeVerify a) → r = 0)
      (size : bs.length = (outputRegion i s).2)
      (fits : (outputRegion i s).1 + (outputRegion i s).2 ≤ s.par.dmemBytes)
      (cipher : CipherInv c) (context : (∀ y ∈ s.ae, AeInv y) → AeInv x) :
      Answer i s (complete .ok r (memWrite (outputRegion i s).1 bs (putSlot (slotNamed i) c x s)))

/-- A command that writes the cipher slot it names, and no byte. -/
theorem Answer.sc {i : Instr} {s : State} {k : Nat} {c : Cipher} (hn : slotNamed i = .sc k)
    (hr : outputRegion i s = (0, 0)) (hc : CipherInv c) : Answer i s (complete .ok 0 (setSc k c s)) := by
  have h := Answer.completes (i := i) (s := s) 0 [] c AeSlot.zero (.inl rfl) (fun _ => rfl) (by simp [hr])
    (by simp [hr]) hc (fun _ => AeSlot.inv_zero)
  rwa [hn] at h

/-- A command that writes the AEAD slot it names, and no byte. -/
theorem Answer.ae {i : Instr} {s : State} {k : Nat} {x : AeSlot} (hn : slotNamed i = .ae k)
    (hr : outputRegion i s = (0, 0)) (hx : (∀ y ∈ s.ae, AeInv y) → AeInv x) :
    Answer i s (complete .ok 0 (setAe k x s)) := by
  have h := Answer.completes (i := i) (s := s) 0 [] Cipher.zero x (.inl rfl) (fun _ => rfl) (by simp [hr])
    (by simp [hr]) Cipher.inv_zero hx
  rwa [hn] at h

/-- A command that answers a next state answers one of these, and nothing else. -/
theorem exec_answer {i : Instr} {s t : State} (h : exec i s = .next t) : Answer i s t := by
  cases i with
  | scInit slot =>
    rcases execScInit_next h with ⟨-, rfl⟩ | ⟨c, hc, rfl⟩ | ⟨-, -, rfl⟩
    · exact .absent
    · exact .fails c (List.mem_cons_of_mem _ (by simpa using firstFailure_code hc))
    · exact .sc rfl rfl (Cipher.inv_of_cur_ne (by simp))
  | scXor slot =>
    rcases execScXor_next h with ⟨-, rfl⟩ | ⟨c, -, -, rfl⟩ | ⟨c, j, -, -, ⟨-, rfl⟩ | ⟨hr, rfl⟩⟩
    · exact .absent
    · exact .fails _ (by simp [codesOf])
    · exact .fails _ (by simp [codesOf])
    · exact .completes 0 _ _ AeSlot.zero (.inl rfl) (fun _ => rfl) (by simp [outputRegion]) (regionOk_iff.1 hr)
        (Cipher.inv_of_cur_ne (ksXor_cur_ne_uninit _ _ _)) (fun _ => AeSlot.inv_zero)
  | scDestroy slot =>
    rcases execScDestroy_next h with ⟨-, rfl⟩ | ⟨-, rfl⟩
    · exact .absent
    · exact .sc rfl rfl Cipher.inv_zero
  | derive =>
    rcases execDerive_next h with ⟨c, hc, rfl⟩ | ⟨hc, rfl⟩
    · exact .fails c (firstFailure_code hc)
    · obtain ⟨-, -, -, hr⟩ := deriveCheck_eq_none.1 hc
      exact .completes 0 _ Cipher.zero AeSlot.zero (.inl rfl) (fun _ => rfl) (by simp [outputRegion]) hr Cipher.inv_zero
        (fun _ => AeSlot.inv_zero)
  | aeInit slot =>
    rcases execAeInit_next h with ⟨-, rfl⟩ | ⟨x, -, ⟨c, hc, rfl⟩ | ⟨-, rfl⟩⟩
    · exact .absent
    · exact .fails c (List.mem_cons_of_mem _ (firstFailure_code hc))
    · exact .ae rfl rfl fun _ => aeStart_inv _ _
  | aeAad slot =>
    rcases execAeAad_next h with ⟨-, rfl⟩ | ⟨x, hx, ⟨c, hc, rfl⟩ | ⟨hc, rfl⟩⟩
    · exact .absent
    · exact .fails c (List.mem_cons_of_mem _ (firstFailure_code hc))
    · exact .ae rfl rfl fun hs => aeAad_inv (hs x (List.mem_of_getElem? hx)) hc (by simp)
  | aeEncrypt slot =>
    rcases execAeEncrypt_next h with ⟨-, rfl⟩ | ⟨x, hx, ⟨c, hc, rfl⟩ | ⟨hc, j, -, rfl⟩⟩
    · exact .absent
    · exact .fails c (List.mem_cons_of_mem _ (firstFailure_code hc))
    · obtain ⟨-, -, hr, -⟩ := enterCheck_eq_none.1 hc
      exact .completes 0 _ Cipher.zero _ (.inl rfl) (fun _ => rfl) (by simp [outputRegion]) hr Cipher.inv_zero fun hs =>
        dataCommand_inv (.inl rfl) (hs x (List.mem_of_getElem? hx)) hc (ksXor_cur_ne_uninit _ _ _) (by simp)
  | aeDecrypt slot =>
    rcases execAeDecrypt_next h with ⟨-, rfl⟩ | ⟨x, hx, ⟨c, hc, rfl⟩ | ⟨hc, j, -, rfl⟩⟩
    · exact .absent
    · exact .fails c (List.mem_cons_of_mem _ (firstFailure_code hc))
    · obtain ⟨-, -, hr, -⟩ := enterCheck_eq_none.1 hc
      exact .completes 0 _ Cipher.zero _ (.inl rfl) (fun _ => rfl) (by simp [outputRegion]) hr Cipher.inv_zero fun hs =>
        dataCommand_inv (.inr (.inl rfl)) (hs x (List.mem_of_getElem? hx)) hc (ksXor_cur_ne_uninit _ _ _) (by simp)
  | aeAuth slot =>
    rcases execAeAuth_next h with ⟨-, rfl⟩ | ⟨x, hx, ⟨c, hc, rfl⟩ | ⟨hc, rfl⟩⟩
    · exact .absent
    · exact .fails c (List.mem_cons_of_mem _ (firstFailure_code hc))
    · refine .ae rfl rfl fun hs => ?_
      have hinv := hs x (List.mem_of_getElem? hx)
      obtain ⟨hlive, -⟩ := enterCheck_eq_none.1 hc
      exact dataCommand_inv (.inr (.inr rfl)) hinv hc (hinv.cipher (ne_uninitialized_of_live hlive)) (by simp)
  | aeFinal slot =>
    rcases execAeFinal_next h with ⟨-, rfl⟩ | ⟨x, -, ⟨c, hc, rfl⟩ | ⟨hc, rfl⟩⟩
    · exact .absent
    · exact .fails c (List.mem_cons_of_mem _ (firstFailure_code hc))
    · obtain ⟨-, hr⟩ := aeFinalCheck_eq_none.1 hc
      exact .completes 0 _ Cipher.zero AeSlot.zero (.inl rfl) (fun _ => rfl) (by simp [outputRegion]) hr Cipher.inv_zero
        (fun _ => AeSlot.inv_zero)
  | aeVerify slot =>
    rcases execAeVerify_next h with ⟨-, rfl⟩ | ⟨x, -, ⟨c, hc, rfl⟩ | ⟨-, rfl⟩⟩
    · exact .absent
    · exact .fails c (List.mem_cons_of_mem _ (firstFailure_code hc))
    · exact .completes _ [] Cipher.zero AeSlot.zero (ctEq16_zero_or_one _ _) (fun hi => absurd rfl (hi slot)) rfl
        (Nat.zero_le _) Cipher.inv_zero (fun _ => AeSlot.inv_zero)
  | aeDestroy slot =>
    rcases execAeDestroy_next h with ⟨-, rfl⟩ | ⟨-, rfl⟩
    · exact .absent
    · exact .ae rfl rfl fun _ => AeSlot.inv_zero

end Sys2Proof.Machine
end

section
/-! The invariant: the part that is about the slots, DMEM and the parameters, kept by every operation, then by every
command and every host action. -/
namespace Sys2Proof.Machine

/-- The invariant without STATUS and RES, which a command rewrites as it completes. -/
structure DataInv (sc : List Cipher) (ae : List AeSlot) (mem : List Host.Cell) (par : Params) : Prop where
  scCount  : 1 ≤ sc.length ∧ sc.length ≤ 256
  aeCount  : 1 ≤ ae.length ∧ ae.length ≤ 256
  memSize  : 1 ≤ par.dmemBytes ∧ par.dmemBytes ≤ 2 ^ 32
  memForm  : Memory.wf mem
  memRange : ∀ p ∈ mem, p.1 < par.dmemBytes
  ciphers  : ∀ c ∈ sc, CipherInv c
  contexts : ∀ x ∈ ae, AeInv x

/-- `DataInv` of a state. -/
abbrev State.DataInv (s : State) : Prop := Machine.DataInv s.sc s.ae s.mem s.par

theorem State.inv_iff {s : State} :
    s.Inv ↔ legalCode s.code ∧ s.busy = false ∧ (s.res = 0 ∨ s.res = 1) ∧ s.DataInv := by
  constructor
  · rintro ⟨hcode, hidle, hres, h1, h2, h3, h4, h5, h6, h7⟩
    exact ⟨hcode, hidle, hres, h1, h2, h3, h4, h5, h6, h7⟩
  · rintro ⟨hcode, hidle, hres, h1, h2, h3, h4, h5, h6, h7⟩
    exact ⟨hcode, hidle, hres, h1, h2, h3, h4, h5, h6, h7⟩

/-- The invariant reads no argument register and no field of the host's side. -/
theorem State.Inv.congr {s t : State} (hs : s.Inv) (hcode : t.code = s.code) (hbusy : t.busy = s.busy)
    (hres : t.res = s.res) (ht : t.DataInv) : t.Inv := by
  obtain ⟨hc, hb, hr, -⟩ := State.inv_iff.1 hs
  exact State.inv_iff.2 ⟨hcode ▸ hc, hbusy ▸ hb, hres ▸ hr, ht⟩

theorem State.Inv.data {s : State} (hs : s.Inv) : s.DataInv := (State.inv_iff.1 hs).2.2.2

theorem Code.byte_legal (c : Code) : legalCode c.byte := by cases c <;> simp [Code.byte, legalCode]

section DataInv
variable {sc : List Cipher} {ae : List AeSlot} {mem : List Host.Cell} {par : Params}

/-- Bytes listed inside DMEM in canonical form. -/
theorem DataInv.withMem (h : DataInv sc ae mem par) {mem' : List Host.Cell} (hform : Memory.wf mem')
    (hrange : ∀ p ∈ mem', p.1 < par.dmemBytes) : DataInv sc ae mem' par :=
  { h with memForm := hform, memRange := hrange }

theorem DataInv.write (h : DataInv sc ae mem par) {a : Nat} (v : Byte) (ha : a < par.dmemBytes) :
    DataInv sc ae (Memory.write mem a v) par :=
  h.withMem (Memory.wf_write h.memForm _ _) fun p hp => by
    rcases Memory.mem_write hp with rfl | hp
    · exact ha
    · exact h.memRange p hp

theorem DataInv.writeBytes (h : DataInv sc ae mem par) {a : Nat} {bs : List Byte}
    (hfit : a + bs.length ≤ par.dmemBytes) : DataInv sc ae (Memory.writeBytes mem a bs) par :=
  h.withMem (Memory.wf_writeBytes h.memForm _ _) fun p hp => by
    rcases Memory.mem_writeBytes hp with hp | hp
    · omega
    · exact h.memRange p hp

theorem DataInv.setSc (h : DataInv sc ae mem par) {c : Cipher} (hc : CipherInv c) (i : Nat) :
    DataInv (sc.set i c) ae mem par :=
  { h with
    scCount := by simpa using h.scCount
    ciphers := fun d hd => (List.mem_or_eq_of_mem_set hd).elim (h.ciphers d) (fun e => e ▸ hc) }

theorem DataInv.setAe (h : DataInv sc ae mem par) {x : AeSlot} (hx : AeInv x) (i : Nat) :
    DataInv sc (ae.set i x) mem par :=
  { h with
    aeCount := by simpa using h.aeCount
    contexts := fun y hy => (List.mem_or_eq_of_mem_set hy).elim (h.contexts y) (fun e => e ▸ hx) }

end DataInv

section State
variable {s : State}

theorem State.DataInv.putSlot (h : s.DataInv) (n : SlotName) {c : Cipher} {x : AeSlot} (hc : CipherInv c)
    (hx : AeInv x) : (putSlot n c x s).DataInv := by
  cases n with
  | none => exact h
  | sc i => exact h.setSc hc i
  | ae i => exact h.setAe hx i

theorem State.DataInv.fail (h : s.DataInv) (n : SlotName) (code : Code) : (fail n code s).Inv := by
  have hz : (zeroize n s).DataInv := zeroize_eq_putSlot n s ▸ h.putSlot n Cipher.inv_zero AeSlot.inv_zero
  exact State.inv_iff.2 ⟨code.byte_legal, rfl, .inl rfl, hz⟩

/-- A block reset zeroizes every slot (R37, R250). -/
theorem State.DataInv.blockReset (h : s.DataInv) : (blockReset s).Inv := by
  refine State.inv_iff.2 ⟨Code.ok.byte_legal, rfl, .inl rfl, ?_⟩
  exact { h with
    scCount := by simpa using h.scCount
    aeCount := by simpa using h.aeCount
    ciphers := fun c hc => by
      obtain ⟨-, -, rfl⟩ := List.mem_map.1 hc
      exact Cipher.inv_zero
    contexts := fun x hx => by
      obtain ⟨-, -, rfl⟩ := List.mem_map.1 hx
      exact AeSlot.inv_zero }

theorem State.DataInv.drawBytes (h : s.DataInv) {a n : Nat} (hfit : a + n ≤ s.par.dmemBytes) :
    (drawBytes a n s).DataInv := by
  obtain ⟨m, hm, -⟩ := drawBytes_frame a n s
  have hform := drawBytes_wf h.memForm a n
  have hrange : ∀ p ∈ (Machine.drawBytes a n s).mem, p.1 < s.par.dmemBytes := fun p hp => by
    rcases drawBytes_mem hp with hp | hp
    · omega
    · exact h.memRange p hp
  rw [hm] at hform hrange ⊢
  exact h.withMem hform hrange

end State

/-- Every command keeps the invariant, from a state in which it runs (BUSY and RES may hold anything). -/
theorem exec_inv {i : Instr} {s t : State} (hs : s.DataInv) (h : exec i s = .next t) : t.Inv := by
  cases exec_answer h with
  | absent => exact hs.fail _ _
  | fails code => exact hs.fail _ _
  | completes r bs c x bit matchOnly size fits cipher context =>
    refine State.inv_iff.2 ⟨Code.ok.byte_legal, rfl, bit, ?_⟩
    exact (hs.putSlot _ cipher (context hs.contexts)).writeBytes (by simpa [size] using fits)

theorem issue_inv {w : Word} {s t : State} (hs : s.DataInv) (h : issue w s = .next t) : t.Inv := by
  have hb : ({ s with busy := true } : State).DataInv := hs
  cases hd : decode s.sc.length s.ae.length w with
  | illegal | badSlot =>
    simp only [issue, hd, Host.Outcome.next.injEq] at h
    exact h ▸ hb.fail _ _
  | cmd i =>
    simp only [issue, hd] at h
    exact exec_inv hb h

/-- A command that completes with OK has its output region inside DMEM. -/
theorem outputRegion_fits {i : Instr} {s t : State} (h : exec i s = .next t) (hok : t.code = Code.ok.byte) :
    (outputRegion i s).1 + (outputRegion i s).2 ≤ s.par.dmemBytes := by
  cases exec_answer h with
  | absent => simp [Code.byte] at hok
  | fails code listed =>
    obtain rfl : code = .ok := Code.byte_injective (by simpa using hok)
    cases i <;> simp [codesOf] at listed
  | completes r bs c x bit matchOnly size fits => exact fits

/-- A command abandoned by reset leaves DMEM well formed: it draws bytes only in a region that fits. -/
theorem abandon_inv (w : Word) {s : State} (hs : s.DataInv) : (abandon w s).Inv := by
  unfold abandon
  refine State.DataInv.blockReset ?_
  split
  · exact hs
  · exact hs
  · split
    · split
      next hexec hok => exact hs.drawBytes (outputRegion_fits hexec hok)
      next => exact hs
    · exact hs
    · exact hs

theorem wipeUnlessMatch_inv {a n : Nat} {s t : State} (hs : s.Inv) (h : wipeUnlessMatchAct a n s = .next t) :
    t.Inv := by
  unfold wipeUnlessMatchAct at h
  dsimp only at h
  split at h
  · cases h
    exact hs.congr rfl rfl rfl hs.data
  · split at h
    next hfit =>
      cases h
      exact hs.congr rfl rfl rfl (hs.data.writeBytes (by simpa [zeros_length] using hfit))
    next => cases h

/-- Every action of the host keeps the invariant. -/
theorem hostAct_inv {act : HostAction} {s t : State} (hs : s.Inv) (h : hostAct act s = .next t) : t.Inv := by
  cases act with
  | regRead off width =>
    simp only [hostAct, regReadAct] at h
    split at h <;> cases h
    exact hs.congr rfl rfl rfl hs.data
  | regWrite off width v =>
    simp only [hostAct, regWriteAct] at h
    split at h
    · cases hreg : hostRegAt off with
      | arg i =>
        rw [hreg] at h
        cases h
        exact hs.congr rfl rfl rfl hs.data
      | cmd =>
        rw [hreg] at h
        exact issue_inv hs.data h
      | status | res | reserved =>
        rw [hreg] at h
        cases h
        exact hs
    · cases h
  | dmemRead a =>
    simp only [hostAct, dmemReadAct] at h
    split at h <;> cases h
    exact hs.congr rfl rfl rfl hs.data
  | dmemWrite a v =>
    simp only [hostAct, dmemWriteAct] at h
    split at h <;> cases h
    next ha => exact hs.congr rfl rfl rfl (hs.data.write v ha)
  | chk =>
    simp only [hostAct, chkAct] at h
    split at h <;> cases h <;> exact hs.congr rfl rfl rfl hs.data
  | pollBusy =>
    simp only [hostAct, pollBusyAct] at h
    split at h <;> cases h
    exact hs.congr rfl rfl rfl hs.data
  | reset =>
    cases h
    exact hs.data.blockReset
  | cmdThenReset w =>
    cases h
    exact abandon_inv w hs.data
  | dmemCopy src dst =>
    simp only [hostAct, dmemCopyAct] at h
    split at h <;> cases h
    next hin => exact hs.congr rfl rfl rfl (hs.data.write _ hin.2)
  | wipeUnlessMatch a n => exact wipeUnlessMatch_inv hs h

/-- Settles O58, by the host's next action; a command's part is `exec_answer`. -/
theorem stepKeepsInvariant : Obligations.StepKeepsInvariant := by
  intro s t hs h
  cases hhost : s.host with
  | nil =>
    simp only [step, hostTurn, hhost, Host.Outcome.next.injEq] at h
    exact h ▸ hs
  | cons act acts =>
    rw [step_cons hhost] at h
    exact hostAct_inv (s := { s with host := acts }) (hs.congr rfl rfl rfl hs.data) h

/-- Settles O57: power-on leaves R6's defaults, every slot zeroized and nothing listed in DMEM. -/
theorem invariantAtReset : Obligations.InvariantAtReset where
  codeLegal := Code.ok.byte_legal
  idle := rfl
  resBits := .inl rfl
  scCount := by decide
  aeCount := by decide
  memSize := by decide
  memForm := Memory.wf_reset
  memRange _ hp := nomatch hp
  ciphers _ hc := List.eq_of_mem_replicate hc ▸ Cipher.inv_zero
  contexts _ hx := List.eq_of_mem_replicate hx ▸ AeSlot.inv_zero

end Sys2Proof.Machine
end

section
/-! The frames of the twelve commands, and the small facts about STATUS, host reads and power-on. -/
namespace Sys2Proof.Machine

/-- Settles O39, by what a command can answer. -/
theorem registerFrame : Obligations.RegisterFrame := by
  intro i s t h
  cases exec_answer h with
  | absent => simp
  | fails code => simp
  | completes r bs c x bit matchOnly => simpa [Code.byte] using matchOnly

/-- Settles O40: a failure zeroizes only the named slot, and a result is put only there. -/
theorem slotFrame : Obligations.SlotFrame := by
  intro i s t h
  cases exec_answer h with
  | absent => simp
  | fails code =>
    simp only [fail_sc, fail_ae, zeroize_eq_putSlot]
    exact ⟨putSlot_sc_length .., putSlot_ae_length .., fun k hk => putSlot_sc_other hk .., fun k hk =>
      putSlot_ae_other hk ..⟩
  | completes r bs c x =>
    exact ⟨putSlot_sc_length .., putSlot_ae_length .., fun k hk => putSlot_sc_other hk .., fun k hk =>
      putSlot_ae_other hk ..⟩

/-- A command stores only in its output region (R39, R64). -/
theorem exec_read_outside {i : Instr} {s t : State} (h : exec i s = .next t) {b : Nat}
    (hb : b < (outputRegion i s).1 ∨ (outputRegion i s).1 + (outputRegion i s).2 ≤ b) :
    Memory.read t.mem b = Memory.read s.mem b := by
  cases exec_answer h with
  | absent => rw [fail_mem]
  | fails code => rw [fail_mem]
  | completes r bs c x bit matchOnly size =>
    rw [complete_mem, memWrite_mem, Memory.read_writeBytes_outside _ (size ▸ hb), putSlot_mem]

/-- Settles O41: seven commands have the empty output region. -/
theorem memoryFrame : Obligations.MemoryFrame := by
  intro i s t h
  cases i with
  | scXor _ | aeEncrypt _ | aeDecrypt _ | derive | aeFinal _ => exact fun b hb => exec_read_outside h hb
  | scInit _ | scDestroy _ | aeInit _ | aeAad _ | aeAuth _ | aeVerify _ | aeDestroy _ =>
    exact fun b => exec_read_outside h (.inr (Nat.zero_le b))

/-- A write to CMD issues the word (R23). -/
theorem step_cmdWrite {s : State} {w : Word} {acts : List HostAction} (h : s.host = cmdWrite w :: acts) :
    step s = issue w { s with host := acts } := by
  rw [step_cons h]
  rfl

/-- A word that decodes to a command runs it, with BUSY set (R91). -/
theorem issue_of_decode {w : Word} {s : State} {i : Instr} (h : decode s.sc.length s.ae.length w = .cmd i) :
    issue w s = exec i { s with busy := true } := by
  simp [issue, h]

/-- Settles O6: the CMD write issues the word, and issuing runs the decoded command. -/
theorem stepRunsDecodedCommand : Obligations.StepRunsDecodedCommand := by
  intro s acts w i hw
  have hword : BitVec.ofNat 32 (w.toNat % 2 ^ 32) = w := by
    rw [Nat.mod_eq_of_lt w.isLt, BitVec.ofNat_toNat, BitVec.setWidth_eq]
  have hfetch : (s.withFetchWord 32 w.toNat).host = cmdWrite w :: s.host := by rw [State.withFetchWord, hword]
  exact ⟨fun hhost => (step_cmdWrite hhost).trans (issue_of_decode hw),
    (step_cmdWrite hfetch).trans (issue_of_decode hw)⟩

/-- The STATUS word bit by bit (R24): CODE below bit 8, BUSY in bit 8. -/
theorem statusWord_getLsbD (s : State) (k : Nat) :
    (statusWord s).getLsbD k = (s.code.getLsbD k || (decide (k = 8) && s.busy)) := by
  have hcode : ((s.code.zeroExtend 32).getLsbD k) = s.code.getLsbD k := by
    rw [BitVec.getLsbD_setWidth]
    by_cases hk : k < 32
    · simp [hk]
    · simp [hk, BitVec.getLsbD_of_ge s.code k (by omega)]
  have hflag : (0x100 : Word).getLsbD k = decide (k = 8) := by
    rw [show (0x100 : Word) = BitVec.twoPow 32 8 from rfl, BitVec.getLsbD_twoPow]
    simp [eq_comm]
  rw [statusWord, BitVec.getLsbD_or, hcode]
  cases s.busy with
  | false => simp
  | true => rw [if_pos rfl, hflag, Bool.and_true]

/-- Settles O20: bits 0 to 7, bit 8 and bits 9 to 31 of the STATUS word. -/
theorem statusWordFields : Obligations.StatusWordFields := by
  refine fun s => ⟨?_, ?_, ?_⟩
  · ext k hk
    have hk8 : k ≠ 8 := by omega
    simp [statusWord_getLsbD, hk, hk8, BitVec.getLsbD_eq_getElem]
  · rw [statusWord_getLsbD, BitVec.getLsbD_of_ge s.code 8 le_rfl]
    rfl
  · ext k hk
    have hk8 : 9 + k ≠ 8 := by omega
    simp [statusWord_getLsbD, hk8, BitVec.getLsbD_of_ge s.code (9 + k) (by omega)]

/-- On a Live slot whose private cipher is not initialized a data command that passes ENTER's checks stops. -/
theorem dataCommand_stops {slot : BitVec 8} {s : State} {x : AeSlot} {mode : AeState} (k : AeSlot → Fin 64 → Result)
    (hx : s.ae[slot.toNat]? = some x) (hcur : x.c.cur = .uninit) (hcheck : enterCheck mode x s = none) :
    withAe slot s (fun x => guarded (.ae slot.toNat) (enterCheck mode x s) s (withCursor x (k x)))
      = .fault .liveSlotWithoutCipher := by
  rw [withAe_some hx, hcheck, guarded_none, withCursor, hcur]

/-- Settles O32: such a slot passes ENTER's checks, so the command reaches the missing cursor. -/
theorem liveSlotWithoutCipherStops : Obligations.LiveSlotWithoutCipherStops := by
  intro slot s x hx hcur hregion hlimit
  refine ⟨fun hst => ?_, fun hst => ?_⟩
  · have hlive : live x.st = true := by rcases hst with h | h <;> simp [h, live]
    exact dataCommand_stops _ hx hcur (enterCheck_eq_none.2 ⟨hlive, hst, hregion, hlimit⟩)
  · have hlive : live x.st = true := by rcases hst with h | h <;> simp [h, live]
    exact dataCommand_stops _ hx hcur (enterCheck_eq_none.2 ⟨hlive, hst, hregion, hlimit⟩)

/-- A register's value depends on no slot (R38). -/
theorem hostRegValue_slots (s : State) (sc' : List Cipher) (ae' : List AeSlot) (r : HostReg) :
    hostRegValue { s with sc := sc', ae := ae' } r = hostRegValue s r := by
  cases r <;> rfl

/-- Settles O43: the access check and the value read are the same on both states. -/
theorem hostReadsNoSlot : Obligations.HostReadsNoSlot := by
  intro s sc' ae' off width a t
  refine ⟨fun h => ?_, fun h => ?_⟩
  · unfold regReadAct at h ⊢
    split at h <;> cases h
    next hok => exact ⟨_, if_pos hok, hostRegValue_slots ..⟩
  · unfold dmemReadAct at h ⊢
    split at h <;> cases h
    next hok => exact ⟨_, if_pos hok, rfl⟩

/-- Settles O49: each field as R37 and R6's defaults give it. -/
theorem powerOnState : Obligations.PowerOnState :=
  ⟨rfl, rfl, rfl, rfl, by decide, rfl, rfl, rfl, rfl, rfl, rfl⟩

end Sys2Proof.Machine
end

section
/-! What DMEM returns, what the generator and the codec put in each byte, and the host's ports. -/
namespace Sys2Proof.Machine

/-! ### DMEM -/

/-- Byte k of MemRead (R63). -/
theorem Memory.readBytes_getElem? (m : List Host.Cell) (a : Nat) {n k : Nat} (h : k < n) :
    (Memory.readBytes m a n)[k]? = some (Memory.read m (a + k)) := by
  induction n generalizing a k with
  | zero => cases h
  | succ n ih =>
    cases k with
    | zero => rfl
    | succ k =>
      rw [Memory.readBytes, List.getElem?_cons_succ, ih (a + 1) (by omega), Nat.add_right_comm, Nat.add_assoc]

/-- Byte k of the string MemWrite stored (R64): the later bytes do not reach it. -/
theorem Memory.read_writeBytes_inside (m : List Host.Cell) (a : Nat) {bs : List Byte} {k : Nat} {b : Byte}
    (h : bs[k]? = some b) : Memory.read (Memory.writeBytes m a bs) (a + k) = b := by
  induction bs generalizing m a k with
  | nil => simp at h
  | cons v bs ih =>
    rw [Memory.writeBytes]
    cases k with
    | zero =>
      obtain rfl : v = b := by simpa using h
      rw [Memory.read_writeBytes_outside _ (.inl (by omega)), Nat.add_zero, Memory.read_write_self]
    | succ k =>
      rw [← ih (Memory.write m a v) (a + 1) (by simpa using h), Nat.add_right_comm, Nat.add_assoc]

/-- Settles O19, by induction on the length read and on the string written. -/
theorem memoryReadsWhatWasWritten : Obligations.MemoryReadsWhatWasWritten := fun m a n _ =>
  ⟨Memory.readBytes_length m a n, fun _ => Memory.readBytes_getElem? m a, fun _ _ =>
    Memory.read_writeBytes_inside m a, fun _ => Memory.read_writeBytes_outside m⟩

/-! ### The generator and the codec, byte by byte -/

/-- R101's eight quarter-rounds, in its order: the columns, then the diagonals. -/
def roundGroups : List (Fin 16 × Fin 16 × Fin 16 × Fin 16) :=
  [(0, 4, 8, 12), (1, 5, 9, 13), (2, 6, 10, 14), (3, 7, 11, 15),
    (0, 5, 10, 15), (1, 6, 11, 12), (2, 7, 8, 13), (3, 4, 9, 14)]

/-- The quarter-round on one group of words. -/
def groupRound (x : Vector Word 16) (g : Fin 16 × Fin 16 × Fin 16 × Fin 16) : Vector Word 16 :=
  quarterRound x g.1 g.2.1 g.2.2.1 g.2.2.2

theorem doubleRound_eq_foldl (x : Vector Word 16) : doubleRound x = roundGroups.foldl groupRound x := rfl

theorem doubleRounds_eq_foldl (n : Nat) (x : Vector Word 16) :
    doubleRounds n x = (List.replicate n roundGroups).flatten.foldl groupRound x := by
  induction n generalizing x with
  | zero => rfl
  | succ n ih =>
    rw [doubleRounds, ih, doubleRound_eq_foldl, List.replicate_succ, List.flatten_cons, List.foldl_append]

/-- Byte j of a word given as an integer. -/
theorem extractLsb'_byte_ofNat (n : Nat) (j : Fin 4) :
    (BitVec.ofNat 32 n).extractLsb' (8 * j.val) 8 = BitVec.ofNat 8 (n / 256 ^ j.val) := by
  apply BitVec.eq_of_toNat_eq
  rw [BitVec.extractLsb'_toNat, BitVec.toNat_ofNat, BitVec.toNat_ofNat, Nat.shiftRight_eq_div_pow]
  fin_cases j <;> dsimp only <;> omega

/-- Byte j of LE32 is the string's byte at i + j (R8). -/
theorem le32_byte (s : List Byte) (i : Nat) (j : Fin 4) :
    (le32 s i).extractLsb' (8 * j.val) 8 = byteAt s (i + j.val) := by
  rw [le32, extractLsb'_byte_ofNat]
  apply BitVec.eq_of_toNat_eq
  rw [BitVec.toNat_ofNat]
  have h0 := (byteAt s i).isLt
  have h1 := (byteAt s (i + 1)).isLt
  have h2 := (byteAt s (i + 2)).isLt
  fin_cases j <;> simp only [Nat.add_zero] <;> omega

theorem getElem?_eq_byteAt {s : List Byte} {i : Nat} (h : i < s.length) : s[i]? = some (byteAt s i) := by
  simp [byteAt, h]

/-- BYTES64 serializes the low and the high word (R8). -/
theorem bytes64_eq_ser (n : Nat) : bytes64 n = ser [BitVec.ofNat 32 n, BitVec.ofNat 32 (n / 2 ^ 32)] := by
  have hlow : BitVec.ofNat 32 (n % 2 ^ 32) = BitVec.ofNat 32 n := BitVec.eq_of_toNat_eq (by simp)
  rw [bytes64, hlow]
  rfl

/-- Byte k of BYTES64 (R8). -/
theorem bytes64_getElem? (n : Nat) (k : Fin 8) : (bytes64 n)[k.val]? = some (BitVec.ofNat 8 (n / 256 ^ k.val)) := by
  obtain ⟨i, j, hk⟩ : ∃ (i : Fin 2) (j : Fin 4), k.val = 4 * i.val + j.val :=
    ⟨⟨k.val / 4, by omega⟩, ⟨k.val % 4, by omega⟩, (Nat.div_add_mod _ _).symm⟩
  rw [hk, bytes64_eq_ser, ser_getElem?]
  match i with
  | 0 => simp [extractLsb'_byte_ofNat]
  | 1 => simp [extractLsb'_byte_ofNat, Nat.div_div_eq_div_mul, pow_add]

/-- Byte 4i + j of a keystream block: the add-back of word i, serialized (R102). -/
theorem keystreamBlock_getElem? (w : Vector Word 16) (i : Fin 16) (j : Fin 4) :
    (keystreamBlock w).toList[4 * i.val + j.val]? = some (((rounds20 w)[i] + w[i]).extractLsb' (8 * j.val) 8) := by
  rw [keystreamBlock_toList, ser_getElem?]
  simp

/-- KEYWORDS(key) (R106): word k is LE32 at 4k, the key read round again where it has 16 bytes. -/
theorem keyWords_eq_map {key : List Byte} (h : key.length = 16 ∨ key.length = 32) :
    keyWords key = (List.range 8).map fun k => le32 key ((4 * k) % key.length) := by
  rcases h with h | h <;> simp [keyWords, h, List.range_succ]

/-- The pre-round words of DERIVE_CORE (R104 to R106). -/
def deriveWords (key n16 : List Byte) : Vector Word 16 :=
  toVec 16 0 (consts key.length ++ keyWords key ++ fourWords n16)

theorem deriveWords_toList (key n16 : List Byte) :
    (deriveWords key n16).toList = consts key.length ++ keyWords key ++ fourWords n16 :=
  toVec_toList (by simp [fourWords])

/-- The eight post-round words a sub-key is made of (R104). -/
def outerWords (x : Vector Word 16) : List Word := [x[0], x[1], x[2], x[3], x[12], x[13], x[14], x[15]]

theorem deriveCore_eq_ser (key n16 : List Byte) :
    deriveCore key n16 = ser (outerWords (rounds20 (deriveWords key n16))) := rfl

theorem outerWords_getElem? (x : Vector Word 16) (k : Fin 8) :
    (outerWords x)[k.val]? = x.toList[if k.val < 4 then k.val else k.val + 8]? := by
  fin_cases k <;> simp [outerWords]

/-- Settles O60: the rounds as a fold, and each byte string by its serialization. -/
theorem byteStringsAreLittleEndian : Obligations.ByteStringsAreLittleEndian := by
  refine ⟨fun x => doubleRounds_eq_foldl 10 x, fun s i j h => ?_, keystreamBlock_getElem?, fun key n16 hkey _ => ?_,
    fun n _ => ⟨bytes64_length n, bytes64_getElem? n⟩⟩
  · rw [le32_byte, getElem?_eq_byteAt (by omega)]
  · refine ⟨deriveWords key n16, ?_, deriveCore_length .., fun k j => ?_⟩
    · rw [deriveWords_toList, keyWords_eq_map hkey]
      rfl
    · rw [deriveCore_eq_ser, ser_getElem?, outerWords_getElem?]

/-! ### The host's ports -/

/-- What R69 allows. -/
theorem regAccessOk_iff {off : Nat} {width : AccessWidth} :
    regAccessOk off width = true ↔ width = .word ∧ off % 4 = 0 ∧ off ≤ 0xFF := by
  simp [regAccessOk, and_assoc, Nat.lt_succ_iff]

/-- Offsets 0x00 to 0x14 are the argument registers (R76). -/
theorem hostRegAt_arg (i : Fin 6) : hostRegAt (4 * i.val) = .arg i := by
  fin_cases i <;> rfl

/-- No argument register stands above 0x14 (R76). -/
theorem hostRegAt_above_args {off : Nat} (h : 0x18 ≤ off) :
    hostRegAt off = if off = 0x20 then .cmd else if off = 0x24 then .status else if off = 0x28 then .res
      else .reserved := by
  have hne : ∀ k < 0x18, off ≠ k := by omega
  simp [hostRegAt, hne]

/-- An aligned offset is that of an argument register or stands above them. -/
theorem argOffset_or_above {off : Nat} (h : off % 4 = 0) : (∃ i : Fin 6, off = 4 * i.val) ∨ 0x18 ≤ off := by
  rcases Nat.lt_or_ge off 0x18 with hlt | hge
  · exact .inl ⟨⟨off / 4, by omega⟩, by simp only; omega⟩
  · exact .inr hge

/-- The value read at each aligned offset (R69, R76). -/
theorem hostRegValue_at (s : State) {off : Nat} (h : off % 4 = 0) :
    hostRegValue s (hostRegAt off) =
      if off = 0x24 then statusWord s else if off = 0x28 then s.res else (s.args.toList[off / 4]?).getD 0 := by
  rcases argOffset_or_above h with ⟨i, rfl⟩ | habove
  · rw [hostRegAt_arg, if_neg (by omega), if_neg (by omega)]
    simp [hostRegValue]
  · have hnone : s.args.toList[off / 4]? = none := List.getElem?_eq_none (by simp; omega)
    rw [hostRegAt_above_args habove, hnone]
    by_cases hcmd : off = 0x20
    · rw [hcmd]
      rfl
    · rw [if_neg hcmd]
      split_ifs <;> rfl

/-- Settles O46, by the register map. -/
theorem hostRegisterRead : Obligations.HostRegisterRead := by
  intro s off width acts hhost
  rw [step_cons hhost]
  refine ⟨fun hbad => if_neg (mt regAccessOk_iff.1 hbad), fun hwidth halign hrange => ?_⟩
  refine (if_pos (regAccessOk_iff.2 ⟨hwidth, halign, hrange⟩)).trans ?_
  rw [hostRegValue_at _ halign]
  rfl

/-- Settles O47, by the register map. -/
theorem hostRegisterWrite : Obligations.HostRegisterWrite := by
  intro s off width v acts hhost
  rw [step_cons hhost]
  refine ⟨fun hbad => if_neg (mt regAccessOk_iff.1 hbad), fun hwidth halign hrange => ?_⟩
  rw [hostAct, regWriteAct, if_pos (regAccessOk_iff.2 ⟨hwidth, halign, hrange⟩)]
  rcases argOffset_or_above halign with ⟨i, rfl⟩ | habove
  · rw [hostRegAt_arg]
    exact ⟨fun hcmd => absurd hcmd (by omega), fun _ => ⟨s.args.set i.val v, rfl, by simp [Vector.set, Vector.toList]⟩⟩
  · have hargs : s.args.toList = s.args.toList.set (off / 4) v :=
      (List.set_eq_of_length_le (by simp; omega)).symm
    rw [hostRegAt_above_args habove]
    refine ⟨fun hcmd => by rw [if_pos hcmd], fun hcmd => ⟨s.args, ?_, hargs⟩⟩
    rw [if_neg hcmd]
    split_ifs <;> rfl

/-- Settles O48: the byte written, every other byte, and the bound of DMEM. -/
theorem hostDmemPort : Obligations.HostDmemPort := by
  intro s a v acts
  refine ⟨fun hhost ha => ?_, fun hhost ha => ?_, fun hhost ha => ?_⟩
  · exact (step_cons hhost).trans (if_pos ha)
  · exact ⟨_, (step_cons hhost).trans (if_pos ha), Memory.read_write_self .., fun b hb =>
      Memory.read_write_other _ _ _ _ hb⟩
  · rcases hhost with hhost | hhost <;> exact (step_cons hhost).trans (if_neg ha.not_gt)

/-- Settles O53: a poll reads the STATUS word with BUSY set, and asks only that the list issues a command next. -/
theorem busyReadIsAStutter : Obligations.BusyReadIsAStutter := by
  refine fun s w acts => ⟨fun hhost => ?_, fun hhost hnone => ?_⟩
  · have hnext : commandNext (cmdWrite w :: acts) = true := rfl
    rw [step_cons hhost, hostAct, pollBusyAct, if_pos hnext, statusWord, if_pos rfl, BitVec.or_comm]
  · rw [step_cons hhost, hostAct, pollBusyAct]
    exact if_neg (by simp [hnone])

end Sys2Proof.Machine
end

section
/-! The command word: its three fields, what DECODE answers in terms of them, and the host actions of R93 and R96. -/
namespace Sys2Proof.Machine

/-! ### The word's fields -/

/-- A command word is its OPC, SLOT and RSV fields (R80). -/
theorem word_eq_of_fields {v w : Word} (hopc : opcOf v = opcOf w) (hslot : slotOf v = slotOf w)
    (hrsv : rsvOf v = rsvOf w) : v = w := by
  have hopc := congrArg BitVec.toNat hopc
  have hslot := congrArg BitVec.toNat hslot
  have hrsv := congrArg BitVec.toNat hrsv
  simp only [opcOf, slotOf, rsvOf, BitVec.extractLsb'_toNat, Nat.shiftRight_eq_div_pow] at hopc hslot hrsv
  exact BitVec.eq_of_toNat_eq (by omega)

/-- The fields of an encoded command (R92). -/
theorem encode_fields (i : Instr) :
    opcOf (encode i) = opcode i ∧ slotOf (encode i) = slotField i ∧ rsvOf (encode i) = 0 :=
  Laws.EncodeFields.fields (opcode i) (slotField i)

/-- R84's opcodes: DERIVE's, the stream cipher's and the AEAD's. -/
theorem opcode_cases (i : Instr) :
    (i = .derive ∧ opcode i = 0x04) ∨ (1 ≤ (opcode i).toNat ∧ (opcode i).toNat ≤ 3)
      ∨ (0x10 ≤ (opcode i).toNat ∧ (opcode i).toNat ≤ 0x17) := by
  cases i <;> simp [opcode]

theorem eq_derive_of_opcode {i : Instr} (h : opcode i = 0x04) : i = .derive := by
  rcases opcode_cases i with ⟨hi, -⟩ | hsc | hae
  · exact hi
  · exact absurd (h ▸ hsc) (by decide)
  · exact absurd (h ▸ hae) (by decide)

/-! ### The commands that take a slot -/

/-- The table of R84 read from opcode to command, against `opcode` and `slotField`. -/
theorem slotCommand_eq_some_iff {o f : BitVec 8} {i : Instr} :
    slotCommand o f = some i ↔ i ≠ .derive ∧ o = opcode i ∧ f = slotField i := by
  constructor
  · intro h
    rw [slotCommand] at h
    repeat
      rcases ite_eq_iff.1 h with ⟨rfl, h⟩ | ⟨-, h⟩
      · cases h
        exact ⟨nofun, rfl, rfl⟩
    cases h
  · rintro ⟨hi, rfl, rfl⟩
    cases i with
    | derive => exact absurd rfl hi
    | _ => rfl

/-- Opcodes 0x01 to 0x03 name a cipher slot (R82). -/
theorem slotCommand_sc {o : BitVec 8} (f : BitVec 8) (hlow : 1 ≤ o.toNat) (hhigh : o.toNat ≤ 3) :
    ∃ i, slotCommand o f = some i ∧ slotNamed i = .sc f.toNat := by
  obtain rfl | rfl | rfl : o = 1 ∨ o = 2 ∨ o = 3 := by bv_omega
  all_goals exact ⟨_, rfl, rfl⟩

/-- Opcodes 0x10 to 0x17 name an AEAD slot (R82). -/
theorem slotCommand_ae {o : BitVec 8} (f : BitVec 8) (hlow : 0x10 ≤ o.toNat) (hhigh : o.toNat ≤ 0x17) :
    ∃ i, slotCommand o f = some i ∧ slotNamed i = .ae f.toNat := by
  obtain rfl | rfl | rfl | rfl | rfl | rfl | rfl | rfl : o = 0x10 ∨ o = 0x11 ∨ o = 0x12 ∨ o = 0x13 ∨ o = 0x14
      ∨ o = 0x15 ∨ o = 0x16 ∨ o = 0x17 := by bv_omega
  all_goals exact ⟨_, rfl, rfl⟩

/-- The opcodes that stand for no command with a slot. -/
theorem slotCommand_eq_none_iff {o f : BitVec 8} :
    slotCommand o f = none ↔ ¬ (1 ≤ o.toNat ∧ o.toNat ≤ 3) ∧ ¬ (0x10 ≤ o.toNat ∧ o.toNat ≤ 0x17) := by
  constructor
  · refine fun hnone => ⟨fun ⟨hlow, hhigh⟩ => ?_, fun ⟨hlow, hhigh⟩ => ?_⟩
    · obtain ⟨i, hi, -⟩ := slotCommand_sc f hlow hhigh
      simp [hnone] at hi
    · obtain ⟨i, hi, -⟩ := slotCommand_ae f hlow hhigh
      simp [hnone] at hi
  · rintro ⟨hsc, hae⟩
    refine Option.eq_none_iff_forall_ne_some.2 fun i hi => ?_
    obtain ⟨hderive, rfl, -⟩ := slotCommand_eq_some_iff.1 hi
    rcases opcode_cases i with ⟨hd, -⟩ | h | h
    · exact hderive hd
    · exact hsc h
    · exact hae h

theorem wellFormed_of_sc {i : Instr} {k : Nat} (h : slotNamed i = .sc k) (nSc nAe : Nat) :
    wellFormed nSc nAe i = decide (k < nSc) := by
  cases i <;> cases h <;> rfl

theorem wellFormed_of_ae {i : Instr} {k : Nat} (h : slotNamed i = .ae k) (nSc nAe : Nat) :
    wellFormed nSc nAe i = decide (k < nAe) := by
  cases i <;> cases h <;> rfl

/-! ### DECODE -/

section decode
variable {nSc nAe : Nat} {w : Word}

theorem decode_of_rsv (h : rsvOf w ≠ 0) : decode nSc nAe w = .illegal := if_pos h

/-- DERIVE's opcode: the SLOT field is reserved (R82). -/
theorem decode_of_derive (hrsv : rsvOf w = 0) (hopc : opcOf w = 0x04) :
    decode nSc nAe w = if slotOf w = 0 then .cmd .derive else .illegal := by
  simp [decode, hrsv, hopc]

/-- An opcode that takes a slot: a command when the block has the slot. -/
theorem decode_of_slotCommand {i : Instr} (hrsv : rsvOf w = 0) (hi : slotCommand (opcOf w) (slotOf w) = some i) :
    decode nSc nAe w = if wellFormed nSc nAe i then .cmd i else .badSlot := by
  obtain ⟨hderive, hopc, -⟩ := slotCommand_eq_some_iff.1 hi
  have hne : opcOf w ≠ 0x04 := fun h => hderive (eq_derive_of_opcode (hopc ▸ h))
  rw [decode, if_neg (not_not.2 hrsv), if_neg hne, hi]

/-- Every other opcode is reserved (R88). -/
theorem decode_of_no_command (hopc : opcOf w ≠ 0x04) (hnone : slotCommand (opcOf w) (slotOf w) = none) :
    decode nSc nAe w = .illegal := by
  rw [decode, if_neg hopc, hnone, ite_self]

/-- A word decodes to a command exactly when its fields are the command's and the block has the slot. -/
theorem decode_eq_cmd_iff {i : Instr} :
    decode nSc nAe w = .cmd i ↔
      (opcOf w = opcode i ∧ slotOf w = slotField i ∧ rsvOf w = 0) ∧ wellFormed nSc nAe i = true := by
  constructor
  · intro h
    by_cases hrsv : rsvOf w = 0
    · by_cases hopc : opcOf w = 0x04
      · rw [decode_of_derive hrsv hopc] at h
        split_ifs at h with hslot
        cases h
        exact ⟨⟨hopc, hslot, hrsv⟩, rfl⟩
      · cases hi : slotCommand (opcOf w) (slotOf w) with
        | none => simp [decode_of_no_command hopc hi] at h
        | some j =>
          rw [decode_of_slotCommand hrsv hi] at h
          split_ifs at h with hwf
          cases h
          obtain ⟨-, hop, hslot⟩ := slotCommand_eq_some_iff.1 hi
          exact ⟨⟨hop, hslot, hrsv⟩, hwf⟩
    · simp [decode_of_rsv hrsv] at h
  · rintro ⟨⟨hop, hslot, hrsv⟩, hwf⟩
    by_cases hi : i = .derive
    · subst hi
      exact (decode_of_derive hrsv hop).trans (if_pos hslot)
    · rw [decode_of_slotCommand hrsv (slotCommand_eq_some_iff.2 ⟨hi, hop, hslot⟩), if_pos hwf]

/-- The reserved encodings (R88). -/
theorem decode_eq_illegal_iff :
    decode nSc nAe w = .illegal ↔ rsvOf w ≠ 0 ∨ (opcOf w ≠ 0x04 ∧ slotCommand (opcOf w) (slotOf w) = none)
      ∨ (opcOf w = 0x04 ∧ slotOf w ≠ 0) := by
  constructor
  · intro h
    by_contra! hnot
    obtain ⟨hrsv, hsome, hslot⟩ := hnot
    by_cases hopc : opcOf w = 0x04
    · rw [decode_of_derive hrsv hopc, if_pos (hslot hopc)] at h
      cases h
    · obtain ⟨i, hi⟩ := Option.ne_none_iff_exists'.1 (hsome hopc)
      rw [decode_of_slotCommand hrsv hi] at h
      split_ifs at h
  · rintro (hrsv | ⟨hopc, hnone⟩ | ⟨hopc, hslot⟩)
    · exact decode_of_rsv hrsv
    · exact decode_of_no_command hopc hnone
    · rw [decode, if_pos hopc, if_pos hslot, ite_self]

end decode

/-- Settles O1: an encoded command has the command's fields, which is all DECODE looks at. -/
theorem decodeOfEncode : Obligations.DecodeOfEncode := fun _ _ i hwf =>
  decode_eq_cmd_iff.2 ⟨encode_fields i, hwf⟩

/-- Settles O2: the word and the encoding of what it decodes to agree in all three fields. -/
theorem encodeOfDecode : Obligations.EncodeOfDecode := by
  intro nSc nAe w i h
  obtain ⟨⟨hopc, hslot, hrsv⟩, hwf⟩ := decode_eq_cmd_iff.1 h
  obtain ⟨hopc', hslot', hrsv'⟩ := encode_fields i
  exact ⟨word_eq_of_fields (hopc'.trans hopc.symm) (hslot'.trans hslot.symm) (hrsv'.trans hrsv.symm), hwf⟩

/-- Settles O5: the decoder run on each word. -/
theorem sampleWordsDecode : Obligations.SampleWordsDecode := by
  unfold Obligations.SampleWordsDecode
  decide

/-! ### Issuing a word that is no command -/

/-- A reserved word writes STATUS and RES alone (R88). -/
theorem issue_of_illegal {w : Word} {s : State} (h : decode s.sc.length s.ae.length w = .illegal) :
    issue w s = .next { s with code := 0x10, busy := false, res := 0 } := by
  simp only [issue, h]
  rfl

/-- A word that names an absent slot writes STATUS and RES alone, and touches no slot (R82). -/
theorem issue_of_badSlot {w : Word} {s : State} (h : decode s.sc.length s.ae.length w = .badSlot) :
    issue w s = .next { s with code := 0x11, busy := false, res := 0 } := by
  simp only [issue, h]
  rfl

/-- Settles O3: the opcodes without a command, by their ranges. -/
theorem reservedWordsAreIllegal : Obligations.ReservedWordsAreIllegal := by
  refine fun w s => ⟨?_, issue_of_illegal⟩
  have hzero : opcOf w = 0x00 ↔ (opcOf w).toNat = 0 := BitVec.toNat_inj.symm
  have hfour : opcOf w = 0x04 ↔ (opcOf w).toNat = 4 := BitVec.toNat_inj.symm
  have hranges : opcOf w ≠ 0x04 ∧ slotCommand (opcOf w) (slotOf w) = none ↔
      opcOf w = 0x00 ∨ (0x05 ≤ (opcOf w).toNat ∧ (opcOf w).toNat ≤ 0x0F) ∨ 0x18 ≤ (opcOf w).toNat := by
    rw [slotCommand_eq_none_iff, hzero, ne_eq, hfour]
    omega
  rw [decode_eq_illegal_iff, hranges, or_assoc, or_assoc]

/-- What a word of an opcode with a slot means: the command when the block has the slot, else InvalidSlot. -/
theorem decode_or_invalidSlot {w : Word} {s : State} {i : Instr} {n : SlotName} {p : Prop} [Decidable p]
    (hrsv : rsvOf w = 0) (hi : slotCommand (opcOf w) (slotOf w) = some i) (hname : slotNamed i = n)
    (hwf : wellFormed s.sc.length s.ae.length i = decide p) :
    if p then ∃ i, decode s.sc.length s.ae.length w = .cmd i ∧ slotNamed i = n
    else issue w s = .next { s with code := 0x11, busy := false, res := 0 } := by
  have hdecode := decode_of_slotCommand (nSc := s.sc.length) (nAe := s.ae.length) hrsv hi
  split_ifs with hp
  · exact ⟨i, by simpa [hwf, hp] using hdecode, hname⟩
  · exact issue_of_badSlot (by simpa [hwf, hp] using hdecode)

/-- Settles O4, by the opcode's group. -/
theorem slotFieldNamesTheSlot : Obligations.SlotFieldNamesTheSlot := by
  refine fun w s hrsv => ⟨fun hlow hhigh => ?_, fun hlow hhigh => ?_, fun hopc => ?_⟩
  · obtain ⟨i, hi, hname⟩ := slotCommand_sc (slotOf w) hlow hhigh
    exact decode_or_invalidSlot hrsv hi hname (wellFormed_of_sc hname ..)
  · obtain ⟨i, hi, hname⟩ := slotCommand_ae (slotOf w) hlow hhigh
    exact decode_or_invalidSlot hrsv hi hname (wellFormed_of_ae hname ..)
  · have hdecode := decode_of_derive (nSc := s.sc.length) (nAe := s.ae.length) hrsv hopc
    split_ifs with hslot
    · exact ⟨hdecode.trans (if_pos hslot), rfl⟩
    · have hillegal := hdecode.trans (if_neg hslot)
      exact ⟨hillegal, issue_of_illegal hillegal⟩

/-! ### The host actions of R93 and R96 -/

/-- Settles O54: CHK's two branches. -/
theorem checkStopsOnFailure : Obligations.CheckStopsOnFailure := fun _ _ hhost =>
  ⟨fun hok => (step_cons hhost).trans (if_pos hok), fun hfail => (step_cons hhost).trans (if_neg hfail)⟩

/-- A region cleared by MemWrite reads as zero and every other byte is kept (R64, R96). -/
theorem Memory.read_writeBytes_zeros (m : List Host.Cell) (a n c : Nat) :
    Memory.read (Memory.writeBytes m a (zeros n)) c = if a ≤ c ∧ c < a + n then 0 else Memory.read m c := by
  split_ifs with hc
  · obtain ⟨k, rfl⟩ := Nat.exists_eq_add_of_le hc.1
    have hk : (zeros n)[k]? = some 0 := by
      rw [zeros, List.getElem?_replicate, if_pos (by omega)]
    exact Memory.read_writeBytes_inside m a hk
  · exact Memory.read_writeBytes_outside m (by rw [zeros_length]; omega)

/-- Settles O55, by the laws of DMEM and the match bit. -/
theorem safeMacroHostActions : Obligations.SafeMacroHostActions := by
  refine fun s a b n acts => ⟨fun hhost ha hb => ?_, fun hhost hmatch => ?_, fun hhost hmatch hfit => ?_⟩
  · exact ⟨_, (step_cons hhost).trans (if_pos ⟨ha, hb⟩), Memory.read_write_self .., fun c hc =>
      Memory.read_write_other _ _ _ _ hc⟩
  · exact (step_cons hhost).trans (if_pos hmatch)
  · have hno : ¬ s.res.getLsbD 0 = true := Bool.not_eq_true _ ▸ hmatch
    exact ⟨_, (step_cons hhost).trans ((if_neg hno).trans (if_pos hfit)), Memory.read_writeBytes_zeros s.mem a n⟩

end Sys2Proof.Machine
end

section
/-! The keystream generator: the quarter-round word by word, the counter, the nonce reduction, the cipher it sets up,
and the keystream as one sequence of blocks (41_stream_cipher.md sections 1 to 3). -/
namespace Sys2Proof.Machine

/-! ### The quarter-round -/

/-- R7's rotation is the library's. -/
theorem rotl32_eq_rotateLeft (v : Word) {n : Nat} (h : n < 32) : rotl32 v n = v.rotateLeft n := by
  rw [rotl32, BitVec.rotateLeft_def, Nat.mod_eq_of_lt h]

/-- An ARX line changes only the two words it writes, distinct or not. -/
theorem arxStep_get_other (x : Vector Word 16) {a d j : Fin 16} (b : Fin 16) (n : Nat) (ha : j ≠ a) (hd : j ≠ d) :
    (arxStep x a b d n)[j] = x[j] := by
  rw [arxStep, putWord_get_other _ _ hd.symm, putWord_get_other _ _ ha.symm]

/-- A quarter-round changes only the words it names, distinct or not. -/
theorem quarterRound_get_other (x : Vector Word 16) {a b c d j : Fin 16} (h : j ∉ [a, b, c, d]) :
    (quarterRound x a b c d)[j] = x[j] := by
  simp only [List.mem_cons, List.not_mem_nil, or_false, not_or] at h
  obtain ⟨ha, hb, hc, hd⟩ := h
  rw [quarterRound, arxStep_get_other _ _ _ hc hb, arxStep_get_other _ _ _ ha hd, arxStep_get_other _ _ _ hc hb,
    arxStep_get_other _ _ _ ha hd]

/-- The sum an ARX line leaves in its first word (R100). -/
theorem arxStep_get_sum (x : Vector Word 16) {a d : Fin 16} (b : Fin 16) (n : Nat) (h : a ≠ d) :
    (arxStep x a b d n)[a] = x[a] + x[b] :=
  (arxStep_get x n h).1

/-- The rotation an ARX line leaves in its third word (R100). -/
theorem arxStep_get_rotated (x : Vector Word 16) {a d : Fin 16} (b : Fin 16) {n : Nat} (h : a ≠ d) (hn : n < 32) :
    (arxStep x a b d n)[d] = (x[d] ^^^ (x[a] + x[b])).rotateLeft n :=
  (arxStep_get x n h).2.1.trans (rotl32_eq_rotateLeft _ hn)

/-- Settles O7: each of R100's four lines writes two words and leaves the two others for the next. -/
theorem quarterRoundWords : Obligations.QuarterRoundWords := by
  intro x a b c d hab hac had hbc hbd hcd
  refine ⟨?_, ?_, ?_, ?_, fun j ha hb hc hd => quarterRound_get_other x (by simp [ha, hb, hc, hd])⟩
  all_goals
    simp only [quarterRound, arxStep_get_sum, arxStep_get_rotated, arxStep_get_other, ne_eq, hab, hac, had, hbd, hcd,
      Ne.symm hab, Ne.symm hac, Ne.symm hbc, Ne.symm hbd, Ne.symm hcd, not_false_eq_true, Nat.reduceLT]

/-- What a quarter-round leaves in the words it names depends only on what they held. -/
theorem quarterRound_get_congr {x y : Vector Word 16} {a b c d j : Fin 16} (hnodup : [a, b, c, d].Nodup)
    (hxy : ∀ k ∈ [a, b, c, d], x[k] = y[k]) (hj : j ∈ [a, b, c, d]) :
    (quarterRound x a b c d)[j] = (quarterRound y a b c d)[j] := by
  simp only [List.nodup_cons, List.mem_cons, List.not_mem_nil, or_false, not_or] at hnodup
  obtain ⟨⟨hab, hac, had⟩, ⟨hbc, hbd⟩, hcd, -⟩ := hnodup
  obtain ⟨hxa, hxb, hxc, hxd, -⟩ := quarterRoundWords x a b c d hab hac had hbc hbd hcd
  obtain ⟨hya, hyb, hyc, hyd, -⟩ := quarterRoundWords y a b c d hab hac had hbc hbd hcd
  have ha := hxy a (by simp)
  have hb := hxy b (by simp)
  have hc := hxy c (by simp)
  have hd := hxy d (by simp)
  simp only [List.mem_cons, List.not_mem_nil, or_false] at hj
  rcases hj with rfl | rfl | rfl | rfl
  · rw [hxa, hya, ha, hb, hc, hd]
  · rw [hxb, hyb, ha, hb, hc, hd]
  · rw [hxc, hyc, ha, hb, hc, hd]
  · rw [hxd, hyd, ha, hb, hc, hd]

/-- A quarter-round on other words, before or after, does not change what a quarter-round leaves in its words. -/
theorem quarterRound_commute_get (x : Vector Word 16) {a b c d a' b' c' d' j : Fin 16} (hnodup : [a, b, c, d].Nodup)
    (hdisj : [a, b, c, d].Disjoint [a', b', c', d']) (hj : j ∈ [a, b, c, d]) :
    (quarterRound (quarterRound x a b c d) a' b' c' d')[j] = (quarterRound (quarterRound x a' b' c' d') a b c d)[j] :=
  (quarterRound_get_other _ (hdisj hj)).trans
    (quarterRound_get_congr hnodup (fun _ hk => (quarterRound_get_other x (hdisj hk)).symm) hj)

/-- Settles O8, word by word: each word is named by the first quarter-round, by the second, or by neither. -/
theorem quarterRoundsOnDisjointWordsCommute : Obligations.QuarterRoundsOnDisjointWordsCommute := by
  intro x a b c d a' b' c' d' hnodup
  obtain ⟨hnd, hnd', hdisj⟩ := (List.nodup_append' (l₁ := [a, b, c, d]) (l₂ := [a', b', c', d'])).1 hnodup
  refine Vector.ext fun k hk => ?_
  change (quarterRound _ a' b' c' d')[(⟨k, hk⟩ : Fin 16)] = (quarterRound _ a b c d)[(⟨k, hk⟩ : Fin 16)]
  by_cases h : ⟨k, hk⟩ ∈ [a, b, c, d]
  · exact quarterRound_commute_get x hnd hdisj h
  by_cases h' : ⟨k, hk⟩ ∈ [a', b', c', d']
  · exact (quarterRound_commute_get x hnd' hdisj.symm h').symm
  · rw [quarterRound_get_other _ h', quarterRound_get_other _ h, quarterRound_get_other _ h,
      quarterRound_get_other _ h']

/-! ### The counter -/

/-- Settles O9: a counter word wraps to 0 exactly when it was 0xFFFFFFFF. -/
theorem counterIncrementCarriesOnce : Obligations.CounterIncrementCarriesOnce := by
  intro w
  have hwrap : w[12] + 1 = 0 ↔ w[12] = 0xFFFFFFFF := by
    generalize w[12] = v
    bv_omega
  have hlow : (putWord w 12 (w[12] + 1))[12] = w[12] + 1 := putWord_get_self w 12 _
  have hkeep (j : Fin 16) (h : j ≠ 12) : (putWord w 12 (w[12] + 1))[j] = w[j] := putWord_get_other w _ h.symm
  simp only [incCounter, hlow, hwrap]
  split_ifs with h
  · refine ⟨(putWord_get_other _ (i := 13) (j := 12) _ (by decide)).trans hlow,
      (putWord_get_self _ 13 _).trans (congrArg (· + 1) (hkeep 13 (by decide))), fun j h12 h13 => ?_⟩
    rw [putWord_get_other _ _ h13.symm, hkeep j h12]
  · exact ⟨hlow, hkeep 13 (by decide), fun j h12 _ => hkeep j h12⟩

theorem incTimes_succ (n : Nat) (w : Vector Word 16) : incTimes (n + 1) w = incCounter (incTimes n w) := by
  induction n generalizing w with
  | zero => rfl
  | succ n ih => exact ih (incCounter w)

/-! ### Nonce lengths and the reduction -/

/-- R107's closed form. -/
theorem nonceOk_iff {n : Nat} : nonceOk n = true ↔ 8 ≤ n ∧ (n % 16 = 0 ∨ n % 16 = 8 ∨ n % 16 = 12) := by
  simp [nonceOk, or_assoc]

/-- A layout length is its own EFFLEN. -/
theorem effLen_of_short {n : Nat} (hlow : 8 ≤ n) (hhigh : n < 24) : effLen n = n := by
  unfold effLen
  omega

/-- 16 bytes less of a longer nonce leave its EFFLEN. -/
theorem effLen_of_long {n : Nat} (h : 24 ≤ n) : effLen n = effLen (n - 16) := by
  unfold effLen
  omega

/-- EFFLEN takes no byte a nonce does not have. -/
theorem effLen_le {n : Nat} (h : 8 ≤ n) : effLen n ≤ n := by
  unfold effLen
  omega

/-- EFFLEN of a valid length is the length of one of R108's three layouts. -/
theorem effLen_of_nonceOk {n : Nat} (h : nonceOk n = true) : effLen n = 8 ∨ effLen n = 12 ∨ effLen n = 16 := by
  rw [nonceOk_iff] at h
  unfold effLen
  omega

/-- Settles O14: in its closed form NONCE_OK's recursion is arithmetic modulo 16. -/
theorem nonceLengthRule : Obligations.NonceLengthRule := by
  refine ⟨fun n => ?_, fun n => nonceOk_iff, by decide, fun n hn => ?_⟩
  · rw [nonceOk_iff, nonceOk_iff]
    omega
  · split_ifs with hshort
    · exact effLen_of_short (nonceOk_iff.1 hn).1 hshort
    · exact effLen_of_long (not_lt.1 hshort)

/-- No turn of REDUCE's loop is taken on a nonce below 24 bytes. -/
theorem reduceLoop_of_short (fuel : Nat) (key : List Byte) {nonce : List Byte} (h : nonce.length < 24) :
    reduceLoop fuel key nonce = (key, nonce) := by
  cases fuel with
  | zero => rfl
  | succ fuel => exact if_neg h.not_ge

/-- Any two bounds on the turns that are no less than the nonce's length give the same result. -/
theorem reduceLoop_fuel {f g : Nat} (key : List Byte) {nonce : List Byte} (hf : nonce.length ≤ f)
    (hg : nonce.length ≤ g) : reduceLoop f key nonce = reduceLoop g key nonce := by
  induction f generalizing g key nonce with
  | zero => rw [reduceLoop_of_short _ _ (by omega), reduceLoop_of_short _ _ (by omega)]
  | succ f ih =>
    cases g with
    | zero => rw [reduceLoop_of_short _ _ (by omega), reduceLoop_of_short _ _ (by omega)]
    | succ g =>
      simp only [reduceLoop]
      split_ifs with hlong
      · exact ih _ (by rw [List.length_drop]; omega) (by rw [List.length_drop]; omega)
      · rfl

/-- REDUCE leaves a layout nonce and its key as they are (R109). -/
theorem reduce_of_short (key : List Byte) {nonce : List Byte} (h : nonce.length < 24) :
    reduce key nonce = (key, nonce) :=
  reduceLoop_of_short _ key h

/-- One turn of REDUCE (R109). -/
theorem reduce_of_long (key : List Byte) {nonce : List Byte} (h : 24 ≤ nonce.length) :
    reduce key nonce = reduce (deriveCore key (nonce.take 16)) (nonce.drop 16) := by
  obtain ⟨n, hn⟩ := Nat.exists_eq_add_of_le' (Nat.le_trans (by decide : 1 ≤ 24) h)
  rw [reduce, hn, reduceLoop, if_pos h]
  exact reduceLoop_fuel _ (by rw [List.length_drop]; omega) le_rfl

/-- Settles O12: CIPHER_INIT uses its key and nonce only through REDUCE. -/
theorem extendedNonceEquivalence : Obligations.ExtendedNonceEquivalence := by
  refine fun key nonce ctr => ⟨fun hlong => ?_, reduce_of_short key⟩
  rw [cipherInit, cipherInit, reduce_of_long key hlong]

/-- Induction along the turns of REDUCE. -/
theorem reduce_induction {P : List Byte → List Byte → Prop} (short : ∀ key nonce, nonce.length < 24 → P key nonce)
    (long : ∀ key nonce, 24 ≤ nonce.length → P (deriveCore key (nonce.take 16)) (nonce.drop 16) → P key nonce)
    (key nonce : List Byte) : P key nonce := by
  induction hn : nonce.length using Nat.strong_induction_on generalizing key nonce with
  | _ n ih =>
    rcases Nat.lt_or_ge nonce.length 24 with hshort | hlong
    · exact short key nonce hshort
    · exact long key nonce hlong (ih (n - 16) (by omega) _ _ (by rw [List.length_drop, hn]))

/-- The nonce REDUCE ends with is the last EFFLEN bytes (R107, R109). -/
theorem reduce_nonce (key nonce : List Byte) (h : 8 ≤ nonce.length) :
    (reduce key nonce).2 = nonce.drop (nonce.length - effLen nonce.length) := by
  induction key, nonce using reduce_induction with
  | short key nonce hshort =>
    rw [reduce_of_short key hshort, effLen_of_short h hshort, Nat.sub_self, List.drop_zero]
  | long key nonce hlong ih =>
    have hle : effLen (nonce.length - 16) ≤ nonce.length - 16 := effLen_le (by omega)
    rw [List.length_drop] at ih
    rw [reduce_of_long key hlong, ih (by omega), List.drop_drop, effLen_of_long hlong]
    congr 1
    omega

/-- REDUCE keeps a 32-byte key at 32 bytes: every key it derives has that length (R104). -/
theorem reduce_key_length (key nonce : List Byte) (h : key.length = 32) : (reduce key nonce).1.length = 32 := by
  induction key, nonce using reduce_induction with
  | short key nonce hshort => rwa [reduce_of_short key hshort]
  | long key nonce hlong ih => exact reduce_of_long key hlong ▸ ih (deriveCore_length ..)

/-- Settles O13: the last bytes that REDUCE keeps, and a derived key's length kept by the turns after the first. -/
theorem reducedNonceHasLayoutLength : Obligations.ReducedNonceHasLayoutLength := by
  intro key nonce hok
  have hmin : 8 ≤ nonce.length := (nonceOk_iff.1 hok).1
  have hnonce := reduce_nonce key nonce hmin
  refine ⟨hnonce, ?_, effLen_of_nonceOk hok, fun hlong => ?_⟩
  · rw [hnonce, List.length_drop, Nat.sub_sub_self (effLen_le hmin)]
  · rw [reduce_of_long key hlong]
    exact reduce_key_length _ _ (deriveCore_length ..)

/-! ### CIPHER_INIT -/

/-- LAYOUT (R108) with no modulus at the low counter word: a 32-bit word takes the counter modulo 2^32. -/
theorem layout_eq (nonce : List Byte) (ctr : Nat) :
    layout nonce ctr =
      if nonce.length = 8 then [BitVec.ofNat 32 ctr, BitVec.ofNat 32 (ctr / 2 ^ 32), le32 nonce 0, le32 nonce 4]
      else if nonce.length = 12 then [BitVec.ofNat 32 ctr, le32 nonce 0, le32 nonce 4, le32 nonce 8]
      else [le32 nonce 0, le32 nonce 4, le32 nonce 8, le32 nonce 12] := by
  have hlow : BitVec.ofNat 32 (ctr % 2 ^ 32) = BitVec.ofNat 32 ctr := BitVec.eq_of_toNat_eq (by simp)
  rw [layout, hlow, fourWords]

/-- Settles O15: a layout nonce is not reduced, so the words are those of the key and nonce given. -/
theorem cipherInitWords : Obligations.CipherInitWords := by
  intro key nonce ctr hkey hnonce
  refine ⟨?_, by simp [cipherInit, zeros], rfl⟩
  have hwords : (cipherInit key nonce ctr).w.toList = consts key.length ++ keyWords key ++ layout nonce ctr := by
    rw [cipherInit, reduce_of_short key (by omega)]
    exact toVec_toList (by simp)
  rw [hwords, keyWords_eq_map hkey, layout_eq]
  rfl

/-! ### The keystream -/

/-- The cipher c at cursor i is p bytes after the start of the keystream that begins with a fresh block at state words
w: a block for each 64 bytes started, the last one in the buffer, and the cursor on the last byte used (R111). -/
structure AtByte (w : Vector Word 16) (p : Nat) (c : Cipher) (i : Fin 64) : Prop where
  words  : c.w = incTimes ((p + 63) / 64) w
  buffer : p ≠ 0 → c.ks = keystreamBlock (incTimes ((p - 1) / 64) w)
  cursor : i.val = (p + 63) % 64

/-- At CUR = 63 no byte of the keystream has been used. -/
theorem atByte_zero (c : Cipher) : AtByte c.w 0 c 63 := ⟨rfl, fun h => absurd rfl h, rfl⟩

/-- The cursor's own field is not looked at. -/
theorem atByte_set_cur {w : Vector Word 16} {p : Nat} {c : Cipher} {i : Fin 64} (h : AtByte w p c i) (k : Cursor) :
    AtByte w p { c with cur := k } i := ⟨h.words, h.buffer, h.cursor⟩

/-- Taking one byte moves one byte on; a new block is made exactly at a multiple of 64 (R111, R102). -/
theorem atByte_nextByte {w : Vector Word 16} {p : Nat} {c : Cipher} {i : Fin 64} (h : AtByte w p c i) :
    AtByte w (p + 1) (nextByte c i).1 (nextByte c i).2 := by
  obtain ⟨hw, hks, hi⟩ := h
  unfold nextByte
  split_ifs with hlast
  · have hmul : p % 64 = 0 := by
      rw [hlast] at hi
      change 63 = _ at hi
      omega
    have hw : c.w = incTimes (p / 64) w := by rw [hw, show (p + 63) / 64 = p / 64 by omega]
    refine ⟨?_, fun _ => congrArg keystreamBlock hw, ?_⟩
    · rw [show (p + 1 + 63) / 64 = p / 64 + 1 by omega, incTimes_succ, ← hw]
      rfl
    · change 0 = _
      omega
  · have hmul : p % 64 ≠ 0 := fun hmul => hlast (Fin.ext (hi.trans (by change _ = 63; omega)))
    refine ⟨?_, fun _ => ?_, ?_⟩
    · rw [hw, show (p + 1 + 63) / 64 = (p + 63) / 64 by omega]
    · rw [hks (by omega), show (p + 1 - 1) / 64 = (p - 1) / 64 by omega]
    · rw [Fin.val_add, hi]
      change (_ + 1) % 64 = _
      omega

/-- The byte under the cursor is the last keystream byte used. -/
theorem get_of_atByte {w : Vector Word 16} {p : Nat} {c : Cipher} {i : Fin 64} (h : AtByte w (p + 1) c i) :
    c.ks.get i = keystreamAt w p := by
  have hi : i.val = p % 64 := by rw [h.cursor]; omega
  rw [keystreamAt, byteAt, ← hi, h.buffer (by omega), Nat.add_sub_cancel]
  simp [Vector.get_eq_getElem, -keystreamBlock_toList]

/-- KSXOR moves one keystream byte on for each byte of its input. -/
theorem atByte_ksXor {w : Vector Word 16} {p : Nat} {c : Cipher} {i : Fin 64} (h : AtByte w p c i) (bs : List Byte) :
    ∃ j, (ksXor c i bs).1.cur = .idx j ∧ AtByte w (p + bs.length) (ksXor c i bs).1 j := by
  induction bs generalizing p c i with
  | nil => exact ⟨i, rfl, atByte_set_cur h _⟩
  | cons b bs ih =>
    rw [ksXor_cons, List.length_cons, Nat.add_comm bs.length, ← Nat.add_assoc]
    exact ih (atByte_nextByte h)

/-- Each output byte is the input byte XOR the keystream byte at its place (R111). -/
theorem ksXor_getElem?_of_atByte {w : Vector Word 16} {p m : Nat} {c : Cipher} {i : Fin 64} {bs : List Byte} {b : Byte}
    (h : AtByte w p c i) (hb : bs[m]? = some b) : (ksXor c i bs).2[m]? = some (b ^^^ keystreamAt w (p + m)) := by
  induction bs generalizing p m c i with
  | nil => simp at hb
  | cons v bs ih =>
    rw [ksXor_cons]
    cases m with
    | zero =>
      obtain rfl : v = b := by simpa using hb
      rw [List.getElem?_cons_zero, get_of_atByte (atByte_nextByte h), Nat.add_zero]
    | succ m =>
      rw [List.getElem?_cons_succ, ih (atByte_nextByte h) (by simpa using hb), Nat.add_right_comm, Nat.add_assoc]

/-- Settles O10: from CUR = 63 the input starts at byte 0 of the keystream. -/
theorem keystreamIsTheBlockSequence : Obligations.KeystreamIsTheBlockSequence := by
  intro c bs
  have hstart := atByte_zero c
  obtain ⟨j, hcur, hend⟩ := atByte_ksXor hstart bs
  rw [Nat.zero_add] at hend
  refine ⟨ksXor_length c 63 bs, fun m b hb => ?_, hend.words, fun hne => hend.buffer ?_, j, hcur, hend.cursor⟩
  · rw [ksXor_getElem?_of_atByte hstart hb, Nat.zero_add]
  · exact mt List.length_eq_zero_iff.1 hne

theorem nextByte_set_cur (c : Cipher) (k : Cursor) (i : Fin 64) :
    nextByte { c with cur := k } i = ({ (nextByte c i).1 with cur := k }, (nextByte c i).2) := by
  unfold nextByte
  split_ifs <;> rfl

/-- KSXOR starts from the cursor it is given, not from the one its cipher holds. -/
theorem ksXor_set_cur (c : Cipher) (k : Cursor) (i : Fin 64) (bs : List Byte) :
    ksXor { c with cur := k } i bs = ksXor c i bs := by
  induction bs generalizing c i with
  | nil => rfl
  | cons b bs ih => rw [ksXor_cons, ksXor_cons, nextByte_set_cur, ih]

/-- Applying the keystream twice from one cipher returns the input (R112). -/
theorem ksXor_ksXor (c : Cipher) (i : Fin 64) (bs : List Byte) : (ksXor c i (ksXor c i bs).2).2 = bs := by
  induction bs generalizing c i with
  | nil => rfl
  | cons b bs ih => simp [ksXor_cons, ih]

/-- KSXOR of a concatenation goes on from where the first part left the cipher (R112). -/
theorem ksXor_append (c : Cipher) (i : Fin 64) (s t : List Byte) :
    ∃ j, (ksXor c i s).1.cur = .idx j
      ∧ ksXor c i (s ++ t) = ((ksXor (ksXor c i s).1 j t).1, (ksXor c i s).2 ++ (ksXor (ksXor c i s).1 j t).2) := by
  induction s generalizing c i with
  | nil => exact ⟨i, rfl, (ksXor_set_cur c (.idx i) i t).symm⟩
  | cons b s ih =>
    obtain ⟨j, hcur, happend⟩ := ih (nextByte c i).1 (nextByte c i).2
    exact ⟨j, hcur, by rw [List.cons_append, ksXor_cons, happend]; rfl⟩

/-- Settles O11, by the two laws of KSXOR. -/
theorem keystreamInvolutionAndSplit : Obligations.KeystreamInvolutionAndSplit := by
  intro c i s t
  obtain ⟨j, hcur, happend⟩ := ksXor_append c i s t
  exact ⟨ksXor_ksXor c i s, j, hcur, by rw [happend], by rw [happend]⟩

/-! ### The stream-cipher commands -/

theorem keySizeOk_iff {n : Nat} : keySizeOk n = true ↔ n = 16 ∨ n = 32 := by
  simp [keySizeOk]

/-- What SC_INIT asks of its operands (R113). -/
theorem scInitCheck_eq_none {s : State} :
    scInitCheck s = none ↔ keySizeOk (argNat s 1) = true ∧ nonceOk (argNat s 3) = true ∧ ctrOperand s < 2 ^ 53
      ∧ (effLen (argNat s 3) = 12 → ctrOperand s < 2 ^ 32) ∧ argNat s 0 + argNat s 1 ≤ s.par.dmemBytes
      ∧ argNat s 2 + argNat s 3 ≤ s.par.dmemBytes := by
  simp [scInitCheck, firstFailure_cons_eq_none, firstFailure_nil, regionOk_iff]

/-- Settles O21: an operand list that passes SC_INIT's checks reaches its effect. -/
theorem scInitCompletes : Obligations.ScInitCompletes := by
  intro slot s hslot hkey hnonce hctr hlayout hkeyRegion hnonceRegion
  have hcheck := scInitCheck_eq_none.2 ⟨keySizeOk_iff.2 hkey, hnonce, hctr, hlayout, hkeyRegion, hnonceRegion⟩
  rw [exec, execScInit, withSc_some (List.getElem?_eq_getElem hslot), hcheck, guarded_none]
  rfl

/-- Settles O22: with its region inside DMEM an initialized slot reaches the transform. -/
theorem scXorCompletes : Obligations.ScXorCompletes := by
  intro slot s c i hslot hcur hregion
  have hcheck : firstFailure [(!regionOk s (argNat s 0) (argNat s 1), .boundsError)] = none := by
    simpa [firstFailure_cons_eq_none, firstFailure_nil, regionOk_iff] using hregion
  simp only [exec, execScXor, withSc_some hslot, hcur, hcheck, guarded_none]
  rfl

/-- Settles O23: the destroys ask only for the slot. -/
theorem destroyCompletes : Obligations.DestroyCompletes := by
  refine fun slot s => ⟨fun hslot => ?_, fun hslot => ?_⟩
  · rw [exec, execScDestroy, withSc_some (List.getElem?_eq_getElem hslot)]
    rfl
  · rw [exec, execAeDestroy, withAe_some (List.getElem?_eq_getElem hslot)]
    rfl

/-- Settles O24: DERIVE's checks pass, and a sub-key has 32 bytes. -/
theorem deriveCompletes : Obligations.DeriveCompletes := by
  intro s hkey hkeyRegion hnonceRegion hout
  have hcheck := deriveCheck_eq_none.2 ⟨keySizeOk_iff.2 hkey, hkeyRegion, hnonceRegion, hout⟩
  refine ⟨?_, deriveCore_length ..⟩
  rw [exec, execDerive, hcheck, guarded_none, memRead, memRead, complete, memWrite, Code.byte]

end Sys2Proof.Machine
end

section
/-! AEAD sequencing (42_aead_sequencing.md): the MAC framing, AE_INIT, the four data commands as one relation, and the
transition table. -/
namespace Sys2Proof.Machine

/-! ### Operands, DMEM and the keystream -/

theorem argNat_setArg_self (i : Fin 6) (v : Word) (s : State) : argNat (setArg i v s) i = v.toNat := by
  simp [argNat]

theorem argNat_setArg_other {i j : Fin 6} (h : i ≠ j) (v : Word) (s : State) : argNat (setArg i v s) j = argNat s j := by
  have hval : i.val ≠ j.val := fun hij => h (Fin.ext hij)
  simp [argNat, hval]

/-- The region operands of a data command. -/
theorem argNat_region (a n : Word) (s : State) :
    argNat (setArg 0 a (setArg 1 n s)) 0 = a.toNat ∧ argNat (setArg 0 a (setArg 1 n s)) 1 = n.toNat :=
  ⟨argNat_setArg_self .., (argNat_setArg_other (by decide) ..).trans (argNat_setArg_self ..)⟩

theorem Memory.readBytes_append (m : List Host.Cell) (a n k : Nat) :
    Memory.readBytes m a (n + k) = Memory.readBytes m a n ++ Memory.readBytes m (a + n) k := by
  induction n generalizing a with
  | zero => simp [Memory.readBytes]
  | succ n ih => rw [Nat.succ_add, Memory.readBytes, ih, Memory.readBytes, List.cons_append, Nat.add_assoc, Nat.add_comm 1]

theorem Memory.writeBytes_append (m : List Host.Cell) (a : Nat) (bs cs : List Byte) :
    Memory.writeBytes m a (bs ++ cs) = Memory.writeBytes (Memory.writeBytes m a bs) (a + bs.length) cs := by
  induction bs generalizing m a with
  | nil => rfl
  | cons b bs ih =>
    rw [List.cons_append, Memory.writeBytes, ih, Memory.writeBytes, List.length_cons, Nat.add_assoc, Nat.add_comm 1]

/-- MemRead above a region is not changed by MemWrite to it. -/
theorem Memory.readBytes_writeBytes_above (m : List Host.Cell) {a b : Nat} {bs : List Byte} (h : a + bs.length ≤ b)
    (n : Nat) : Memory.readBytes (Memory.writeBytes m a bs) b n = Memory.readBytes m b n := by
  induction n generalizing b with
  | zero => rfl
  | succ n ih => rw [Memory.readBytes, Memory.readBytes, ih (by omega), Memory.read_writeBytes_outside m (.inr h)]

/-- MemRead of a region MemWrite has just written gives the bytes back. -/
theorem Memory.readBytes_writeBytes_same (m : List Host.Cell) (a : Nat) (bs : List Byte) :
    Memory.readBytes (Memory.writeBytes m a bs) a bs.length = bs := by
  refine List.ext_getElem? fun k => ?_
  rcases Nat.lt_or_ge k bs.length with hk | hk
  · rw [Memory.readBytes_getElem? _ _ hk, Memory.read_writeBytes_inside m a (List.getElem?_eq_getElem hk),
      List.getElem?_eq_getElem hk]
  · rw [List.getElem?_eq_none (by simpa using hk), List.getElem?_eq_none hk]

/-- Writing the bytes a region held restores every byte of DMEM. -/
theorem Memory.read_writeBytes_restore (m : List Host.Cell) (a : Nat) {bs cs : List Byte}
    (h : cs = Memory.readBytes m a bs.length) (b : Nat) :
    Memory.read (Memory.writeBytes (Memory.writeBytes m a bs) a cs) b = Memory.read m b := by
  have hlen : cs.length = bs.length := by rw [h, Memory.readBytes_length]
  by_cases hb : a ≤ b ∧ b < a + bs.length
  · obtain ⟨k, rfl⟩ := Nat.exists_eq_add_of_le hb.1
    exact Memory.read_writeBytes_inside _ a (h ▸ Memory.readBytes_getElem? m a (by omega))
  · rw [Memory.read_writeBytes_outside _ (by omega), Memory.read_writeBytes_outside _ (by omega)]

/-- The cipher KSXOR leaves depends on its input's length only (R111). -/
theorem ksXor_cipher_congr (c : Cipher) (i : Fin 64) {s t : List Byte} (h : s.length = t.length) :
    (ksXor c i s).1 = (ksXor c i t).1 := by
  induction s generalizing c i t with
  | nil => rw [List.length_eq_zero_iff.1 h.symm]
  | cons b s ih =>
    obtain ⟨d, t, rfl⟩ := List.exists_cons_of_length_eq_add_one h.symm
    exact ih _ _ (by simpa using h)

/-! ### Padding and the MAC input -/

/-- Settles O16: arithmetic modulo 16, and R151's five examples by evaluation. -/
theorem paddingLength : Obligations.PaddingLength := by
  refine ⟨fun n => ?_, by decide⟩
  unfold pad16
  omega

/-- What FINALIZE adds to the MAC stream (R190): the two paddings and the length trailer. -/
theorem finalizeMac_eq (x : AeSlot) :
    finalizeMac x = { x.mac with
      msg := x.mac.msg ++ macPadding x ++ bytes64 x.aadCnt.toNat ++ bytes64 x.ctCnt.toNat } := by
  unfold finalizeMac macPadding
  split_ifs <;> simp [macUpdate]

/-- Two slots that agree on MAC, counters and on whether they are in state Aad finalize to the same tag. -/
theorem finalizeTag_congr (f : MacFn) {y z : AeSlot} (hmac : z.mac = y.mac) (haad : z.aadCnt = y.aadCnt)
    (hct : z.ctCnt = y.ctCnt) (hst : z.st = .aad ↔ y.st = .aad) : finalizeTag f z = finalizeTag f y := by
  simp only [finalizeTag, finalizeMac_eq, macPadding, hmac, haad, hct, hst]

/-- Settles O38: in state Aad FINALIZE pads the AAD, in a data mode ENTER has padded it. -/
theorem macInputFraming : Obligations.MacInputFraming := by
  intro f x aad ct haad hct hstream
  rw [finalizeTag, finalizeMac_eq, macFinal, macPadding, haad, hct]
  rcases hstream with ⟨hst, hmsg, rfl⟩ | ⟨hmode, hmsg⟩
  · simp [hst, hmsg]
  · have hst : x.st ≠ .aad := by rcases hmode with h | h | h <;> simp [h]
    simp [hst, hmsg]

/-! ### AE_INIT -/

/-- What AE_INIT asks of its operands (R152). -/
theorem aeInitCheck_eq_none {s : State} :
    aeInitCheck s = none ↔ keySizeOk (argNat s 1) = true ∧ nonceOk (argNat s 3) = true
      ∧ argNat s 0 + argNat s 1 ≤ s.par.dmemBytes ∧ argNat s 2 + argNat s 3 ≤ s.par.dmemBytes := by
  simp [aeInitCheck, firstFailure_cons_eq_none, firstFailure_nil, regionOk_iff]

/-- KSXOR of 64 zero bytes from CUR = 63 gives one keystream block, and leaves it in the buffer (R111). -/
theorem ksXor_zeros_block (c : Cipher) :
    ksXor c 63 (zeros 64) =
      ({ w := incCounter c.w, ks := keystreamBlock c.w, cur := .idx 63 }, (keystreamBlock c.w).toList) := by
  have hstart := atByte_zero c
  obtain ⟨j, hcur, hend⟩ := atByte_ksXor hstart (zeros 64)
  obtain rfl : j = 63 := Fin.ext hend.cursor
  have hcipher : (ksXor c 63 (zeros 64)).1 = { w := incCounter c.w, ks := keystreamBlock c.w, cur := .idx 63 } := by
    have hwords : (ksXor c 63 (zeros 64)).1.w = incCounter c.w := hend.words
    have hbuffer : (ksXor c 63 (zeros 64)).1.ks = keystreamBlock c.w := hend.buffer (by decide)
    rw [← hwords, ← hbuffer, ← hcur]
  refine Prod.ext hcipher (List.ext_getElem? fun m => ?_)
  rcases Nat.lt_or_ge m 64 with hm | hm
  · have hzero : (zeros 64)[m]? = some 0 := by rw [zeros, List.getElem?_replicate, if_pos hm]
    have hblock : keystreamAt c.w m = byteAt (keystreamBlock c.w).toList m := by
      rw [keystreamAt, Nat.div_eq_of_lt hm, Nat.mod_eq_of_lt hm, incTimes]
    rw [ksXor_getElem?_of_atByte hstart hzero, Nat.zero_add, hblock, getElem?_eq_byteAt (by simpa using hm)]
    simp
  · rw [List.getElem?_eq_none (by simpa [zeros_length] using hm), List.getElem?_eq_none (by simpa using hm)]

/-- A vector read as a list and back. -/
theorem toVec_toList_self {α : Type} {n : Nat} (fill : α) (v : Vector α n) : toVec n fill v.toList = v :=
  Vector.toList_inj.1 (toVec_toList v.length_toList)

/-- The slot AE_INIT leaves, by keystream block 0 (R152, R102). -/
theorem aeStart_eq (key nonce : List Byte) :
    aeStart key nonce =
      { st := .aad, aadCnt := 0, ctCnt := 0, macKey := keystreamBlock (cipherInit key nonce 0).w
        c := { w := incCounter (cipherInit key nonce 0).w, ks := keystreamBlock (cipherInit key nonce 0).w, cur := .idx 63 }
        mac := macInit (toVec 32 0 ((keystreamBlock (cipherInit key nonce 0).w).toList.take 32)) } := by
  simp only [aeStart, ksXor_zeros_block, toVec_toList_self]

/-- Settles O25: the checks pass, and the slot left holds keystream block 0. -/
theorem aeInitCompletes : Obligations.AeInitCompletes := by
  intro slot s hslot hkey hnonce hkeyRegion hnonceRegion
  have hcheck := aeInitCheck_eq_none.2 ⟨keySizeOk_iff.2 hkey, hnonce, hkeyRegion, hnonceRegion⟩
  refine ⟨_, toVec_toList (fill := 0) (by simp), ?_⟩
  rw [exec, execAeInit, withAe_some (List.getElem?_eq_getElem hslot), hcheck, guarded_none, aeStart_eq]
  rfl

/-! ### The data commands -/

/-- AE_AAD's effect on its slot (R153). -/
def absorbAad (x : AeSlot) (bs : List Byte) : AeSlot :=
  { x with mac := macUpdate x.mac bs, aadCnt := x.aadCnt + BitVec.ofNat 64 bs.length }

/-- What a data command that succeeds makes of the slot x and its region's bytes bs: the slot it leaves and the bytes it
stores over the region, none for AE_AAD and AE_AUTH (R153 to R157). -/
inductive DataStep (slot : BitVec 8) (x : AeSlot) (bs : List Byte) : Instr → AeSlot → List Byte → Prop
  | aad (hst : x.st = .aad) (hlimit : x.aadCnt.toNat + bs.length < 2 ^ 53) :
      DataStep slot x bs (.aeAad slot) (absorbAad x bs) []
  | encrypt (i : Fin 64) (hst : x.st = .aad ∨ x.st = .encrypt) (hcur : x.c.cur = .idx i)
      (hlimit : x.ctCnt.toNat + bs.length < 2 ^ 53) :
      DataStep slot x bs (.aeEncrypt slot)
        (absorb (enterMode .encrypt x) (ksXor x.c i bs).1 (ksXor x.c i bs).2 bs.length) (ksXor x.c i bs).2
  | decrypt (i : Fin 64) (hst : x.st = .aad ∨ x.st = .decrypt) (hcur : x.c.cur = .idx i)
      (hlimit : x.ctCnt.toNat + bs.length < 2 ^ 53) :
      DataStep slot x bs (.aeDecrypt slot) (absorb (enterMode .decrypt x) (ksXor x.c i bs).1 bs bs.length)
        (ksXor x.c i bs).2
  | auth (hst : x.st = .aad ∨ x.st = .auth) (hlimit : x.ctCnt.toNat + bs.length < 2 ^ 53) :
      DataStep slot x bs (.aeAuth slot) (absorb (enterMode .auth x) x.c bs bs.length) []

/-- ENTER's checks on a state or mode it allows. -/
theorem enterCheck_of_mode {mode : AeState} {x : AeSlot} {s : State} (hm : DataMode mode) (hst : x.st = .aad ∨ x.st = mode)
    (hfit : argNat s 0 + argNat s 1 ≤ s.par.dmemBytes) (hlimit : x.ctCnt.toNat + argNat s 1 < 2 ^ 53) :
    enterCheck mode x s = none := by
  refine enterCheck_eq_none.2 ⟨?_, hst, hfit, hlimit⟩
  rcases hst with h | h
  · rw [h]; rfl
  · rw [h]; rcases hm with rfl | rfl | rfl <;> rfl

/-- A data command with its region inside DMEM performs its step. -/
theorem exec_of_dataStep {slot : BitVec 8} {s : State} {x y : AeSlot} {i : Instr} {out : List Byte}
    (h : DataStep slot x (memRead s (argNat s 0) (argNat s 1)) i y out) (hx : s.ae[slot.toNat]? = some x)
    (hfit : argNat s 0 + argNat s 1 ≤ s.par.dmemBytes) :
    exec i s = .next (complete .ok 0 (memWrite (argNat s 0) out (setAe slot.toNat y s))) := by
  cases h with
  | aad hst hlimit =>
    rw [memRead_length] at hlimit
    have hcheck := aeAadCheck_eq_none.2 ⟨by rw [hst]; rfl, hst, hfit, hlimit⟩
    rw [exec, execAeAad, withAe_some hx, hcheck, guarded_none, absorbAad, memRead_length]
    rfl
  | encrypt i hst hcur hlimit =>
    rw [memRead_length] at hlimit
    rw [exec, execAeEncrypt, withAe_some hx, enterCheck_of_mode (.inl rfl) hst hfit hlimit, guarded_none,
      withCursor_idx hcur, memRead_length]
  | decrypt i hst hcur hlimit =>
    rw [memRead_length] at hlimit
    rw [exec, execAeDecrypt, withAe_some hx, enterCheck_of_mode (.inr (.inl rfl)) hst hfit hlimit, guarded_none,
      withCursor_idx hcur, memRead_length]
  | auth hst hlimit =>
    rw [memRead_length] at hlimit
    rw [exec, execAeAuth, withAe_some hx, enterCheck_of_mode (.inr (.inr rfl)) hst hfit hlimit, guarded_none,
      memRead_length]
    rfl

/-- No command lists OK among its failures (R222). -/
theorem ne_ok_of_listed {i : Instr} {c : Code} (h : c ∈ codesOf i) : c ≠ .ok := by
  rintro rfl
  cases i <;> simp [codesOf] at h

/-- A command that reports OK has not failed. -/
theorem ne_fail_of_ok {n : SlotName} {c : Code} {s t : State} (hc : c ≠ .ok) (hok : t.code = 0) : t ≠ fail n c s := by
  rintro rfl
  exact hc (Code.byte_eq_zero.1 ((fail_code ..).symm.trans hok))

theorem enterCheck_ne_ok {mode : AeState} {x : AeSlot} {s : State} {c : Code} (h : enterCheck mode x s = some c) :
    c ≠ .ok :=
  ne_ok_of_listed (i := .aeAuth 0) (List.mem_cons_of_mem _ (firstFailure_code h))

theorem aeAadCheck_ne_ok {x : AeSlot} {s : State} {c : Code} (h : aeAadCheck x s = some c) : c ≠ .ok :=
  ne_ok_of_listed (i := .aeAad 0) (List.mem_cons_of_mem _ (firstFailure_code h))

/-- An AEAD command that reports OK passed its checks on a slot the block has. -/
theorem withAe_guarded_ok {slot : BitVec 8} {s t : State} {check : AeSlot → Option Code} {k : AeSlot → Result}
    (hne : ∀ {x c}, check x = some c → c ≠ .ok)
    (h : withAe slot s (fun x => guarded (.ae slot.toNat) (check x) s (k x)) = .next t) (hok : t.code = 0) :
    ∃ x, s.ae[slot.toNat]? = some x ∧ check x = none ∧ k x = .next t := by
  rcases withAe_guarded_next h with ⟨-, ht⟩ | ⟨x, hx, ⟨c, hc, ht⟩ | hk⟩
  · exact absurd ht (ne_fail_of_ok (by decide) hok)
  · exact absurd ht (ne_fail_of_ok (hne hc) hok)
  · exact ⟨x, hx, hk⟩

/-- A data command of a mode that reports OK passed ENTER's checks (R154). -/
theorem enter_of_ok {slot : BitVec 8} {s t : State} {mode : AeState} {k : AeSlot → Result}
    (h : withAe slot s (fun x => guarded (.ae slot.toNat) (enterCheck mode x s) s (k x)) = .next t) (hok : t.code = 0) :
    ∃ x, s.ae[slot.toNat]? = some x ∧ argNat s 0 + argNat s 1 ≤ s.par.dmemBytes ∧ (x.st = .aad ∨ x.st = mode)
      ∧ x.ctCnt.toNat + (memRead s (argNat s 0) (argNat s 1)).length < 2 ^ 53 ∧ k x = .next t := by
  obtain ⟨x, hx, hcheck, hk⟩ := withAe_guarded_ok (check := fun x => enterCheck mode x s) enterCheck_ne_ok h hok
  obtain ⟨-, hst, hfit, hlimit⟩ := enterCheck_eq_none.1 hcheck
  exact ⟨x, hx, hfit, hst, (memRead_length ..).symm ▸ hlimit, hk⟩

/-- A data command that reports OK has passed its checks, so its step is possible on a region inside DMEM. -/
theorem exists_dataStep_of_ok {slot : BitVec 8} {s t : State} {i : Instr}
    (hi : i = .aeAad slot ∨ i = .aeEncrypt slot ∨ i = .aeDecrypt slot ∨ i = .aeAuth slot) (h : exec i s = .next t)
    (hok : t.code = 0) :
    ∃ x y out, s.ae[slot.toNat]? = some x ∧ argNat s 0 + argNat s 1 ≤ s.par.dmemBytes
      ∧ DataStep slot x (memRead s (argNat s 0) (argNat s 1)) i y out := by
  rcases hi with rfl | rfl | rfl | rfl
  · obtain ⟨x, hx, hcheck, -⟩ := withAe_guarded_ok (check := fun x => aeAadCheck x s) aeAadCheck_ne_ok h hok
    obtain ⟨-, hst, hfit, hlimit⟩ := aeAadCheck_eq_none.1 hcheck
    exact ⟨x, _, _, hx, hfit, .aad hst ((memRead_length ..).symm ▸ hlimit)⟩
  · obtain ⟨x, hx, hfit, hst, hlimit, hk⟩ := enter_of_ok h hok
    obtain ⟨j, hcur, -⟩ := withCursor_next hk
    exact ⟨x, _, _, hx, hfit, .encrypt j hst hcur hlimit⟩
  · obtain ⟨x, hx, hfit, hst, hlimit, hk⟩ := enter_of_ok h hok
    obtain ⟨j, hcur, -⟩ := withCursor_next hk
    exact ⟨x, _, _, hx, hfit, .decrypt j hst hcur hlimit⟩
  · obtain ⟨x, hx, hfit, hst, hlimit, -⟩ := enter_of_ok h hok
    exact ⟨x, _, _, hx, hfit, .auth hst hlimit⟩

/-- A data command that reports OK has performed its step, over a region inside DMEM. -/
theorem dataStep_of_ok {slot : BitVec 8} {s t : State} {i : Instr}
    (hi : i = .aeAad slot ∨ i = .aeEncrypt slot ∨ i = .aeDecrypt slot ∨ i = .aeAuth slot) (h : exec i s = .next t)
    (hok : t.code = 0) :
    ∃ x y out, s.ae[slot.toNat]? = some x ∧ argNat s 0 + argNat s 1 ≤ s.par.dmemBytes
      ∧ DataStep slot x (memRead s (argNat s 0) (argNat s 1)) i y out
      ∧ t = complete .ok 0 (memWrite (argNat s 0) out (setAe slot.toNat y s)) := by
  obtain ⟨x, y, out, hx, hfit, hstep⟩ := exists_dataStep_of_ok hi h hok
  exact ⟨x, y, out, hx, hfit, hstep, Host.Outcome.next.inj (h.symm.trans (exec_of_dataStep hstep hx hfit))⟩

/-- What ENTER and then a data command leave in a slot in a state the mode allows (R154 to R157). -/
theorem absorb_enterMode {mode : AeState} {x : AeSlot} (hst : x.st = .aad ∨ x.st = mode) (c : Cipher) (ct : List Byte)
    (n : Nat) :
    absorb (enterMode mode x) c ct n = { x with
      st := mode, ctCnt := x.ctCnt + BitVec.ofNat 64 n, c := c
      mac := { x.mac with
        msg := x.mac.msg ++ (if x.st = .aad then zeros (pad16 x.aadCnt.toNat) else []) ++ ct } } := by
  unfold enterMode
  split_ifs with haad
  · rfl
  · rw [← hst.resolve_left haad, List.append_nil]
    rfl

/-- Settles O26: AE_AAD's checks pass, and its counter does not wrap. -/
theorem aeAadCompletes : Obligations.AeAadCompletes := by
  intro slot s x hx hst hfit hlimit
  refine ⟨_, counter_add_toNat hlimit, ?_⟩
  rw [exec_of_dataStep (.aad hst (by rwa [memRead_length])) hx hfit, absorbAad, memRead_length]
  rfl

/-- Settles O27: AE_ENCRYPT's checks pass, and what it leaves is written out. -/
theorem aeEncryptCompletes : Obligations.AeEncryptCompletes := by
  intro slot s x i hx hst hcur hfit hlimit
  refine ⟨_, counter_add_toNat hlimit, ?_⟩
  rw [exec_of_dataStep (.encrypt i hst hcur (by rwa [memRead_length])) hx hfit, absorb_enterMode hst, memRead_length]
  rfl

/-- Settles O28: as AE_ENCRYPT, with the bytes the region held in the MAC stream. -/
theorem aeDecryptCompletes : Obligations.AeDecryptCompletes := by
  intro slot s x i hx hst hcur hfit hlimit
  refine ⟨_, counter_add_toNat hlimit, ?_⟩
  rw [exec_of_dataStep (.decrypt i hst hcur (by rwa [memRead_length])) hx hfit, absorb_enterMode hst, memRead_length]
  rfl

/-- Settles O29: as AE_DECRYPT, with no transform and no store. -/
theorem aeAuthCompletes : Obligations.AeAuthCompletes := by
  intro slot s x hx hst hfit hlimit
  refine ⟨_, counter_add_toNat hlimit, ?_⟩
  rw [exec_of_dataStep (.auth hst (by rwa [memRead_length])) hx hfit, absorb_enterMode hst, memRead_length]
  rfl

/-! ### Two data commands as one, and the round trip -/

/-- A data command stores as many bytes as it read, or none. -/
theorem DataStep.out_length {slot : BitVec 8} {x y : AeSlot} {bs out : List Byte} {i : Instr}
    (h : DataStep slot x bs i y out) : out.length ≤ bs.length := by
  cases h <;> simp

theorem absorb_enterMode_c (mode : AeState) (x : AeSlot) (c : Cipher) (ct : List Byte) (n : Nat) :
    (absorb (enterMode mode x) c ct n).c = c := rfl

/-- The limit on the second of two data commands is the limit on both lengths together. -/
theorem limit_append {mode : AeState} {x : AeSlot} {c : Cipher} {ct bs cs : List Byte}
    (h : x.ctCnt.toNat + bs.length < 2 ^ 53)
    (h' : (absorb (enterMode mode x) c ct bs.length).ctCnt.toNat + cs.length < 2 ^ 53) :
    x.ctCnt.toNat + (bs ++ cs).length < 2 ^ 53 := by
  rw [absorb, enterMode_ctCnt, counter_add_toNat h] at h'
  rwa [List.length_append, ← Nat.add_assoc]

theorem DataMode.ne_aad {mode : AeState} (hm : DataMode mode) : mode ≠ .aad := by
  rcases hm with rfl | rfl | rfl <;> decide

/-- Two byte counts added one after the other. -/
theorem counter_add_add (x : BitVec 64) (n k : Nat) :
    x + BitVec.ofNat 64 n + BitVec.ofNat 64 k = x + BitVec.ofNat 64 (n + k) := by
  rw [BitVec.add_assoc, BitVec.ofNat_add]

/-- The second data command of a mode finds it locked, so both absorb what one absorbs (R160). -/
theorem absorb_absorb {mode : AeState} {x : AeSlot} (hm : DataMode mode) (hst : x.st = .aad ∨ x.st = mode) (c d : Cipher)
    (bs cs : List Byte) (n k : Nat) :
    absorb (enterMode mode (absorb (enterMode mode x) c bs n)) d cs k
      = absorb (enterMode mode x) d (bs ++ cs) (n + k) := by
  have hlocked : (absorb (enterMode mode x) c bs n).st = mode := by rw [absorb_enterMode hst]
  rw [absorb_enterMode (.inr hlocked), absorb_enterMode hst c, absorb_enterMode hst d]
  simp [hm.ne_aad, counter_add_add]

theorem absorbAad_absorbAad (x : AeSlot) (bs cs : List Byte) :
    absorbAad (absorbAad x bs) cs = absorbAad x (bs ++ cs) := by
  simp [absorbAad, macUpdate, counter_add_add]

/-- Two steps of one data command over consecutive byte strings are one step over both (R160, R112). -/
theorem DataStep.append {slot : BitVec 8} {x y z : AeSlot} {bs cs out out' : List Byte} {i : Instr}
    (h : DataStep slot x bs i y out) (h' : DataStep slot y cs i z out') :
    DataStep slot x (bs ++ cs) i z (out ++ out') := by
  cases h with
  | aad hst hlimit =>
    cases h' with | aad _ hlimit' =>
    rw [absorbAad_absorbAad]
    refine .aad hst ?_
    rw [absorbAad, counter_add_toNat hlimit] at hlimit'
    rwa [List.length_append, ← Nat.add_assoc]
  | auth hst hlimit =>
    cases h' with | auth _ hlimit' =>
    rw [absorb_absorb (.inr (.inr rfl)) hst, absorb_enterMode_c, ← List.length_append]
    exact .auth hst (limit_append hlimit hlimit')
  | encrypt j hst hcur hlimit =>
    cases h' with | encrypt k _ hcur' hlimit' =>
    obtain ⟨k', hk', happend⟩ := ksXor_append x.c j bs cs
    obtain rfl : k' = k := Cursor.idx.inj (hk'.symm.trans hcur')
    have hall := DataStep.encrypt (slot := slot) j hst hcur (limit_append hlimit hlimit')
    rw [happend, List.length_append] at hall
    rwa [absorb_absorb (.inl rfl) hst]
  | decrypt j hst hcur hlimit =>
    cases h' with | decrypt k _ hcur' hlimit' =>
    obtain ⟨k', hk', happend⟩ := ksXor_append x.c j bs cs
    obtain rfl : k' = k := Cursor.idx.inj (hk'.symm.trans hcur')
    have hall := DataStep.decrypt (slot := slot) j hst hcur (limit_append hlimit hlimit')
    rw [happend, List.length_append] at hall
    rwa [absorb_absorb (.inr (.inl rfl)) hst]

/-- The stores of two steps over adjacent regions are one store: each fills its region, or neither stores a byte. -/
theorem DataStep.writeBytes {slot : BitVec 8} {x y z : AeSlot} {bs cs out out' : List Byte} {i : Instr}
    (h : DataStep slot x bs i y out) (h' : DataStep slot y cs i z out') (m : List Host.Cell) (a : Nat) :
    Memory.writeBytes (Memory.writeBytes m a out) (a + bs.length) out' = Memory.writeBytes m a (out ++ out') := by
  cases h with
  | aad => cases h'; rfl
  | auth => cases h'; rfl
  | encrypt => rw [Memory.writeBytes_append, ksXor_length]
  | decrypt => rw [Memory.writeBytes_append, ksXor_length]

/-- A successful data command, a second one where its region ended, and one over both regions: the third leaves what the
second left (R160). -/
theorem dataCommand_split {slot : BitVec 8} {s t r u q : State} {i : Instr}
    (hi : i = .aeAad slot ∨ i = .aeEncrypt slot ∨ i = .aeDecrypt slot ∨ i = .aeAuth slot)
    (ht : exec i s = .next t) (htok : t.code = 0)
    (hu : exec i r = .next u) (huok : u.code = 0)
    (hrSlots : r.ae = t.ae ∧ r.sc = t.sc) (hrMem : r.mem = t.mem ∧ r.par = t.par)
    (hrAddr : argNat r 0 = argNat s 0 + argNat s 1)
    (hqSlots : q.ae = s.ae ∧ q.sc = s.sc) (hqMem : q.mem = s.mem ∧ q.par = s.par)
    (hqArgs : argNat q 0 = argNat s 0 ∧ argNat q 1 = argNat s 1 + argNat r 1) :
    ∃ v, exec i q = .next v ∧ v.code = 0 ∧ v.ae = u.ae ∧ v.sc = u.sc ∧ v.mem = u.mem := by
  obtain ⟨x, y, out, hx, -, hstep, rfl⟩ := dataStep_of_ok hi ht htok
  obtain ⟨y', z, out', hy, hfit, hstep', rfl⟩ := dataStep_of_ok hi hu huok
  obtain ⟨hrAe, hrSc⟩ := hrSlots
  obtain ⟨hrMem, hrPar⟩ := hrMem
  obtain ⟨hqAe, hqSc⟩ := hqSlots
  obtain ⟨hqMem, hqPar⟩ := hqMem
  obtain ⟨hqAddr, hqLen⟩ := hqArgs
  obtain rfl : y = y' := by
    rw [hrAe] at hy
    simpa [(List.getElem?_eq_some_iff.1 hx).1] using hy
  have hsecond : memRead r (argNat r 0) (argNat r 1) = memRead s (argNat s 0 + argNat s 1) (argNat r 1) := by
    have hout := hstep.out_length
    rw [memRead_length] at hout
    rw [memRead, hrMem, hrAddr]
    exact Memory.readBytes_writeBytes_above _ (by omega) _
  have hboth : memRead q (argNat q 0) (argNat q 1)
      = memRead s (argNat s 0) (argNat s 1) ++ memRead r (argNat r 0) (argNat r 1) := by
    rw [hsecond, memRead, hqMem, hqAddr, hqLen, Memory.readBytes_append]
    rfl
  have hstores := hstep.writeBytes hstep' s.mem (argNat s 0)
  rw [memRead_length, ← hrAddr] at hstores
  have hexec := exec_of_dataStep (hboth ▸ hstep.append hstep') (hqAe ▸ hx) (by
    rw [hqAddr, hqLen, hqPar]
    rw [hrAddr, hrPar] at hfit
    simpa [Nat.add_assoc] using hfit)
  refine ⟨_, hexec, rfl, ?_, hqSc.trans hrSc.symm, ?_⟩
  · simp [hqAe, hrAe]
  · simp [hqMem, hrMem, hqAddr, hstores]

/-- Settles O44: neither the address nor the length of the whole region wraps. -/
theorem splitDataCommandsAreOne : Obligations.SplitDataCommandsAreOne := by
  intro i slot s t u a n m hi hspan ht htok hu huok
  obtain ⟨haddr, hlen⟩ := argNat_region a n s
  obtain ⟨haddr', hlen'⟩ := argNat_region (a + n) m t
  obtain ⟨haddr'', hlen''⟩ := argNat_region a (n + m) s
  refine dataCommand_split hi ht htok hu huok ⟨rfl, rfl⟩ ⟨rfl, rfl⟩ ?_ ⟨rfl, rfl⟩ ⟨rfl, rfl⟩ ⟨?_, ?_⟩
  · rw [haddr, hlen, haddr', BitVec.toNat_add]
    omega
  · rw [haddr, haddr'']
  · rw [hlen, hlen', hlen'', BitVec.toNat_add]
    omega

/-- AE_ENCRYPT locks Encrypt and stores over its whole region (R154, R155). -/
theorem DataStep.of_encrypt {slot : BitVec 8} {x y : AeSlot} {pt ct : List Byte}
    (h : DataStep slot x pt (.aeEncrypt slot) y ct) : y.st = .encrypt ∧ ct.length = pt.length := by
  cases h with | encrypt j hst =>
  exact ⟨by rw [absorb_enterMode hst], ksXor_length ..⟩

/-- AE_DECRYPT of what AE_ENCRYPT stored, from the same context in Aad, gives the plaintext back and leaves the slot
AE_ENCRYPT left, but for its mode (R160, R112). -/
theorem DataStep.decrypt_of_encrypt {slot : BitVec 8} {x y : AeSlot} {pt ct : List Byte}
    (h : DataStep slot x pt (.aeEncrypt slot) y ct) (hst : x.st = .aad) :
    DataStep slot x ct (.aeDecrypt slot) { y with st := .decrypt } pt := by
  cases h with | encrypt j _ hcur hlimit =>
  have hlen := ksXor_length x.c j pt
  have hstep := DataStep.decrypt (slot := slot) (bs := (ksXor x.c j pt).2) j (.inl hst) hcur (hlen.symm ▸ hlimit)
  rw [ksXor_ksXor, ksXor_cipher_congr x.c j hlen, hlen, absorb_enterMode (.inl hst)] at hstep
  rwa [absorb_enterMode (.inl hst)]

/-- Settles O45: AE_DECRYPT reads the ciphertext AE_ENCRYPT stored, and stores the plaintext the region held before. -/
theorem decryptUndoesEncrypt : Obligations.DecryptUndoesEncrypt := by
  intro slot s t x hx hst ht htok
  obtain ⟨x', y, ct, hx', hfit, hstep, rfl⟩ := dataStep_of_ok (.inr (.inl rfl)) ht htok
  obtain rfl : x' = x := Option.some.inj (hx'.symm.trans hx)
  obtain ⟨hmode, hlen⟩ := hstep.of_encrypt
  rw [memRead_length] at hlen
  have hct : Memory.readBytes (Memory.writeBytes s.mem (argNat s 0) ct) (argNat s 0) (argNat s 1) = ct :=
    hlen ▸ Memory.readBytes_writeBytes_same ..
  have hback := hstep.decrypt_of_encrypt hst
  rw [← hct] at hback
  have hslot : slot.toNat < s.ae.length := (List.getElem?_eq_some_iff.1 hx).1
  refine ⟨_, y, { y with st := .decrypt },
    exec_of_dataStep (y := { y with st := .decrypt }) (out := memRead s (argNat s 0) (argNat s 1)) hback hx hfit,
    rfl, ?_, by simp [hslot], by simp [hslot], rfl, rfl, rfl, rfl, ?_⟩
  · exact Memory.read_writeBytes_restore s.mem _ (hlen ▸ rfl)
  · exact finalizeTag_congr _ rfl rfl rfl (by simp [hmode])

/-! ### The transition table -/

/-- One entry of R150's table by ENTER's two state checks (R154). -/
theorem dataEntry_eq (mode st : AeState) :
    dataEntry mode st =
      if live st = false then .error .notInitialized
      else if st ≠ .aad ∧ st ≠ mode then .error .invalidState
      else .ok mode := by
  cases st <;> simp [dataEntry, live, @eq_comm _ mode]

/-- Where R150's table has a failure for a command that needs state Aad or `mode`, the two state checks report it, whatever
checks follow. -/
theorem firstFailure_of_dataEntry {mode st : AeState} {d : Code} (h : dataEntry mode st = .error d)
    (l : List (Bool × Code)) :
    firstFailure ((!live st, .notInitialized) :: (decide (st ≠ .aad) && decide (st ≠ mode), .invalidState) :: l)
      = some d := by
  rw [dataEntry_eq] at h
  split_ifs at h with hlive hst <;> cases h
  · simp [firstFailure, hlive]
  · simp [firstFailure, hlive, hst]

theorem enterCheck_of_dataEntry {mode : AeState} {x : AeSlot} {d : Code} (h : dataEntry mode x.st = .error d)
    (s : State) : enterCheck mode x s = some d :=
  firstFailure_of_dataEntry h _

/-- AE_AAD's column is that of a command whose only state is Aad. -/
theorem aeTable_aad (slot : BitVec 8) (st : AeState) : aeTable (.aeAad slot) st = dataEntry .aad st := by
  cases st <;> rfl

theorem aeAadCheck_of_dataEntry {x : AeSlot} {d : Code} (h : dataEntry .aad x.st = .error d) (s : State) :
    aeAadCheck x s = some d := by
  rw [← firstFailure_of_dataEntry h _, Bool.and_self, aeAadCheck]

/-- The column of AE_FINAL and AE_VERIFY (R150). -/
theorem aeTable_final (slot : BitVec 8) (st : AeState) :
    aeTable (.aeFinal slot) st = if live st then .ok .uninitialized else .error .notInitialized := by
  cases st <;> rfl

/-- A table failure of AE_FINAL and AE_VERIFY is that of a slot that is not Live. -/
theorem aeTable_final_error {slot : BitVec 8} {st : AeState} {d : Code} (h : aeTable (.aeFinal slot) st = .error d) :
    live st = false ∧ d = .notInitialized := by
  rw [aeTable_final] at h
  split_ifs at h with hlive
  cases h
  exact ⟨by simpa using hlive, rfl⟩

theorem aeFinalCheck_of_entry {slot : BitVec 8} {x : AeSlot} {s : State} {d : Code}
    (h : aeTable (.aeFinal slot) x.st = .error d) : aeFinalCheck x s = some d := by
  obtain ⟨hlive, rfl⟩ := aeTable_final_error h
  simp [aeFinalCheck, firstFailure, hlive]

/-- AE_VERIFY's size check comes before the table's failure (R193). -/
theorem aeVerifyCheck_of_entry {slot : BitVec 8} {x : AeSlot} {s : State} {c d : Code}
    (h : aeTable (.aeFinal slot) x.st = .error d) (hc : aeVerifyCheck x s = some c) : c = d ∨ c = .invalidTagSize := by
  obtain ⟨hlive, rfl⟩ := aeTable_final_error h
  by_cases hsize : argNat s 1 = 16
  · exact .inl (by simpa [aeVerifyCheck, firstFailure, hlive, hsize] using hc.symm)
  · exact .inr (by simpa [aeVerifyCheck, firstFailure, hsize] using hc.symm)

/-- What AE_VERIFY asks of its operands and its slot (R193). -/
theorem aeVerifyCheck_eq_none {x : AeSlot} {s : State} :
    aeVerifyCheck x s = none ↔ argNat s 1 = 16 ∧ live x.st = true ∧ argNat s 0 + 16 ≤ s.par.dmemBytes := by
  simp [aeVerifyCheck, firstFailure_cons_eq_none, firstFailure_nil, regionOk_iff]

/-- A Live state that a data command allows has the mode as its entry. -/
theorem dataEntry_of_mode {mode st : AeState} (hlive : live st = true) (hst : st = .aad ∨ st = mode) :
    dataEntry mode st = .ok mode := by
  rw [dataEntry_eq, if_neg (by simp [hlive]), if_neg (by tauto)]

/-- What an AEAD command that answers a next state does on a present slot, by R150's table: it fails with a code the table
allows, or completes in the table's state. -/
inductive TableAnswer (i : Instr) (a : BitVec 8) (s : State) (x : AeSlot) : State → Prop
  | fails (c : Code) (listed : c ∈ codesOf i)
      (entry : ∀ d, aeTable i x.st = .error d → c = d ∨ (i = .aeVerify a ∧ c = .invalidTagSize)) :
      TableAnswer i a s x (fail (.ae a.toNat) c s)
  | completes (y : AeSlot) {t : State} (code : t.code = 0) (slots : t.ae = s.ae.set a.toNat y)
      (entry : aeTable i x.st = .ok y.st) : TableAnswer i a s x t

/-- A data command of a mode whose checks fail reports the table's failure, if the table has one. -/
theorem TableAnswer.enter {i : Instr} {a : BitVec 8} {s : State} {x : AeSlot} {mode : AeState} {c : Code}
    (hi : aeTable i x.st = dataEntry mode x.st) (hlist : codesOf i = codesOf (.aeAuth a))
    (hc : enterCheck mode x s = some c) : TableAnswer i a s x (fail (.ae a.toNat) c s) :=
  .fails c (hlist ▸ List.mem_cons_of_mem _ (firstFailure_code hc)) fun _ hd =>
    .inl (Option.some.inj (hc.symm.trans (enterCheck_of_dataEntry (hi ▸ hd) s)))

/-- A data command of a mode that completes locks it, which is the table's entry. -/
theorem TableAnswer.absorb {i : Instr} {a : BitVec 8} {s t : State} {x : AeSlot} {mode : AeState} {c : Cipher}
    {ct : List Byte} {n : Nat} (hi : aeTable i x.st = dataEntry mode x.st) (hc : enterCheck mode x s = none)
    (hok : t.code = 0) (hslots : t.ae = s.ae.set a.toNat (absorb (enterMode mode x) c ct n)) : TableAnswer i a s x t := by
  obtain ⟨hlive, hst, -⟩ := enterCheck_eq_none.1 hc
  refine .completes _ hok hslots ?_
  rw [hi, dataEntry_of_mode hlive hst, absorb_enterMode hst]

/-- On a present slot an AEAD command fails its checks or goes on. -/
theorem withAe_guarded_present {slot : BitVec 8} {s t : State} {x : AeSlot} {check : AeSlot → Option Code}
    {k : AeSlot → Result} (hx : s.ae[slot.toNat]? = some x)
    (h : withAe slot s (fun x => guarded (.ae slot.toNat) (check x) s (k x)) = .next t) :
    (∃ c, check x = some c ∧ t = fail (.ae slot.toNat) c s) ∨ (check x = none ∧ k x = .next t) :=
  guarded_next ((withAe_some hx _).symm.trans h)

/-- Every AEAD command on a present slot answers as R150's table says. -/
theorem exec_tableAnswer {i : Instr} {a : BitVec 8} {s t : State} {x : AeSlot} (hi : aeSlotOf i = some a)
    (hx : s.ae[a.toNat]? = some x) (h : exec i s = .next t) : TableAnswer i a s x t := by
  cases i <;> cases hi
  case aeInit =>
    rcases withAe_guarded_present hx h with ⟨c, hc, rfl⟩ | ⟨-, hk⟩
    · exact .fails c (List.mem_cons_of_mem _ (firstFailure_code hc)) nofun
    · cases hk
      exact .completes _ rfl rfl rfl
  case aeAad =>
    rcases withAe_guarded_present hx h with ⟨c, hc, rfl⟩ | ⟨hc, hk⟩
    · refine .fails c (List.mem_cons_of_mem _ (firstFailure_code hc)) fun d hd => .inl ?_
      exact Option.some.inj (hc.symm.trans (aeAadCheck_of_dataEntry (aeTable_aad a x.st ▸ hd) s))
    · cases hk
      obtain ⟨hlive, hst, -⟩ := aeAadCheck_eq_none.1 hc
      exact .completes _ rfl rfl (by rw [aeTable_aad, dataEntry_of_mode hlive (.inl hst), hst])
  case aeEncrypt =>
    rcases withAe_guarded_present hx h with ⟨c, hc, rfl⟩ | ⟨hc, hk⟩
    · exact .enter rfl rfl hc
    · obtain ⟨j, -, hk⟩ := withCursor_next hk
      cases hk
      exact .absorb rfl hc rfl rfl
  case aeDecrypt =>
    rcases withAe_guarded_present hx h with ⟨c, hc, rfl⟩ | ⟨hc, hk⟩
    · exact .enter rfl rfl hc
    · obtain ⟨j, -, hk⟩ := withCursor_next hk
      cases hk
      exact .absorb rfl hc rfl rfl
  case aeAuth =>
    rcases withAe_guarded_present hx h with ⟨c, hc, rfl⟩ | ⟨hc, hk⟩
    · exact .enter rfl rfl hc
    · cases hk
      exact .absorb rfl hc rfl rfl
  case aeFinal =>
    rcases withAe_guarded_present hx h with ⟨c, hc, rfl⟩ | ⟨hc, hk⟩
    · refine .fails c (List.mem_cons_of_mem _ (firstFailure_code hc)) fun d hd => .inl ?_
      exact Option.some.inj (hc.symm.trans (aeFinalCheck_of_entry hd))
    · cases hk
      obtain ⟨hlive, -⟩ := aeFinalCheck_eq_none.1 hc
      exact .completes _ rfl rfl ((aeTable_final a x.st).trans (if_pos hlive))
  case aeVerify =>
    rcases withAe_guarded_present hx h with ⟨c, hc, rfl⟩ | ⟨hc, hk⟩
    · refine .fails c (List.mem_cons_of_mem _ (firstFailure_code hc)) fun d hd => ?_
      exact (aeVerifyCheck_of_entry (slot := a) hd hc).imp_right fun hsize => ⟨rfl, hsize⟩
    · cases hk
      obtain ⟨-, hlive, -⟩ := aeVerifyCheck_eq_none.1 hc
      exact .completes _ rfl rfl ((aeTable_final a x.st).trans (if_pos hlive))
  case aeDestroy =>
    rw [exec, execAeDestroy, withAe_some hx] at h
    cases h
    exact .completes _ rfl rfl rfl

/-- Settles O37: both answers agree with the table, and a failure zeroizes the slot. -/
theorem aeadTransitionTable : Obligations.AeadTransitionTable := by
  intro i a s t x hi hx h
  have hslot : a.toNat < s.ae.length := (List.getElem?_eq_some_iff.1 hx).1
  cases exec_tableAnswer hi hx h with
  | fails c listed entry =>
    refine ⟨fun st' _ hok => absurd rfl (ne_fail_of_ok (ne_ok_of_listed listed) hok), fun d hd => ?_, fun _ => ?_⟩
    · rw [fail_code]
      rcases entry d hd with rfl | ⟨hi, rfl⟩
      · exact .inl rfl
      · exact .inr ⟨hi, rfl⟩
    · simp [hslot, AeSlot.zero]
  | completes y code slots entry =>
    refine ⟨fun st' hst' _ => ?_, fun d hd => ?_, fun hne => absurd code hne⟩
    · obtain rfl := Except.ok.inj (entry.symm.trans hst')
      simp [slots, hslot]
    · exact nomatch entry.symm.trans hd

end Sys2Proof.Machine
end

section
/-! Finalize and verify (43_finalize_verify.md): the tag comparator, and what AE_FINAL and AE_VERIFY do on a Live
slot. -/
namespace Sys2Proof.Machine

/-! ### The tag comparator -/

/-- Bytes accumulated by OR are 0 exactly when every one of them is. -/
theorem foldl_or_eq_zero_iff {d : Byte} {l : List Byte} :
    l.foldl (fun d x => d ||| x) d = 0 ↔ d = 0 ∧ ∀ x ∈ l, x = 0 := by
  induction l generalizing d with
  | nil => simp
  | cons x l ih =>
    rw [List.foldl_cons, ih, List.forall_mem_cons, ← and_assoc]
    exact and_congr_left' BitVec.or_eq_zero_iff

/-- CT_EQ16 finds no difference exactly between equal strings (R192). -/
theorem ctDiff_eq_zero_iff {t e : Vector Byte 16} : ctDiff t e = 0 ↔ t = e := by
  have hbyte : (∀ x ∈ List.zipWith (fun a b => a ^^^ b) t.toList e.toList, x = 0)
      ↔ ∀ k (_ : k < 16), t[k] = e[k] := by
    simp [List.forall_mem_iff_getElem]
  rw [ctDiff, foldl_or_eq_zero_iff, hbyte, ← Vector.ext_iff, eq_self_iff_true, true_and]

/-- The branchless fold: subtracting 1 borrows into bit 8 exactly when the accumulated byte is 0 (R192). -/
theorem borrowBit_eq (d : Byte) : ((d.zeroExtend 32 - 1) >>> 8) &&& 1 = if d = 0 then (1 : Word) else 0 := by
  split_ifs with hd
  · rw [hd]; decide
  · have hshift : (d.zeroExtend 32 - 1) >>> 8 = 0 := by bv_omega
    rw [hshift]; rfl

/-- CT_EQ16 as a comparison: 1 for equal strings, else 0 (R192). -/
theorem ctEq16_eq (t e : Vector Byte 16) : ctEq16 t e = if t = e then 1 else 0 := by
  simp only [ctEq16, borrowBit_eq, ctDiff_eq_zero_iff]

/-- Settles O17: CT_EQ16 decides equality, and equal strings are those that agree in every byte. -/
theorem tagComparatorIsEquality : Obligations.TagComparatorIsEquality := by
  intro t e
  have hext : t = e ↔ ∀ k : Fin 16, t[k] = e[k] := by simp [Vector.ext_iff, Fin.forall_iff]
  rw [ctEq16_eq, ← not_forall, ← hext]
  by_cases h : t = e <;> simp [h]

/-! ### AE_FINAL and AE_VERIFY -/

/-- The tag FINALIZE returns is MAC_FN of the padded stream and its length trailer (R190, R236). -/
theorem finalizeTag_eq (f : MacFn) (x : AeSlot) :
    finalizeTag f x =
      macFn f x.mac.k (x.mac.msg ++ macPadding x ++ (bytes64 x.aadCnt.toNat ++ bytes64 x.ctCnt.toNat)) := by
  rw [finalizeTag, finalizeMac_eq, macFinal, List.append_assoc _ (bytes64 _)]

/-- Comparing a tag with 16 bytes of DMEM compares their byte strings. -/
theorem eq_toVec_iff {n : Nat} {t : Vector Byte n} {bs : List Byte} (h : bs.length = n) :
    t = toVec n 0 bs ↔ t.toList = bs := by
  rw [← Vector.toList_inj, toVec_toList h]

/-- Settles O30: AE_FINAL's checks pass, and FINALIZE's tag is written out. -/
theorem aeFinalCompletes : Obligations.AeFinalCompletes := by
  intro slot s x hx hlive hfit
  rw [exec, execAeFinal, withAe_some hx, aeFinalCheck_eq_none.2 ⟨hlive, hfit⟩, guarded_none, finalizeTag_eq]
  rfl

/-- Settles O31: AE_VERIFY's checks pass, and its comparator compares the tag with the bytes read. -/
theorem aeVerifyCompletes : Obligations.AeVerifyCompletes := by
  intro slot s x hx hsize hlive hfit
  have hcheck := aeVerifyCheck_eq_none.2 ⟨hsize, hlive, hfit⟩
  have hread := memRead_length s (argNat s 0) 16
  rw [exec, execAeVerify, withAe_some hx, hcheck, guarded_none, ctEq16_eq, finalizeTag_eq]
  simp only [eq_toVec_iff hread]
  rfl

end Sys2Proof.Machine
end

section
/-! Poly1305 over whole chunks (60_exceptions.md R239). -/
namespace Sys2Proof.Machine

/-- LE(x) is little-endian: a string's value below, the next string's above it (R239). -/
theorem leNat_append (s t : List Byte) : leNat (s ++ t) = leNat s + 256 ^ s.length * leNat t := by
  induction s with
  | nil => simp [leNat]
  | cons b s ih =>
    simp only [leNat, List.cons_append, List.foldr_cons, List.length_cons] at ih ⊢
    rw [ih]
    ring

/-- LE(x) reads back what the low bytes of an integer hold (R239). -/
theorem leNat_leBytes (n v : Nat) : leNat (leBytes n v) = v % 256 ^ n := by
  induction n generalizing v with
  | zero => simp [leBytes, leNat, Nat.mod_one]
  | succ n ih =>
    simp only [leNat] at ih
    simp only [leBytes, leNat, List.foldr_cons, ih, BitVec.toNat_ofNat]
    rw [pow_succ' 256, Nat.mod_mul]

/-- The byte 1 after a whole chunk is the term 2^128 (R239). -/
theorem leNat_marked {c : List Byte} (h : c.length = 16) : leNat (c ++ [1]) = leNat c + 2 ^ 128 := by
  have hone : leNat [1] = 1 := rfl
  rw [leNat_append, h, hone]
  norm_num

/-- The accumulation over whole chunks, reduced at every chunk, is the unreduced polynomial reduced once. -/
theorem polyLoop_flatten {fuel : Nat} (r acc : Nat) {chunks : List (List Byte)} (hlen : ∀ c ∈ chunks, c.length = 16)
    (hfuel : chunks.length ≤ fuel) :
    polyLoop fuel r (acc % polyPrime) chunks.flatten =
      chunks.foldl (fun acc c => (acc + (leNat c + 2 ^ 128)) * r) acc % polyPrime := by
  induction chunks generalizing fuel acc with
  | nil => cases fuel <;> simp [polyLoop]
  | cons c chunks ih =>
    obtain ⟨hc, hchunks⟩ := List.forall_mem_cons.1 hlen
    obtain ⟨fuel, rfl⟩ := Nat.exists_eq_add_of_le' (Nat.succ_le_of_lt (Nat.zero_lt_of_lt hfuel))
    have hne : (c ++ chunks.flatten).isEmpty = false := by
      cases c with
      | nil => simp at hc
      | cons b c => rfl
    have hreduce (m : Nat) : (acc % polyPrime + m) * r % polyPrime = (acc + m) * r % polyPrime :=
      ((Nat.mod_modEq acc polyPrime).add_right m).mul_right r
    rw [List.flatten_cons, polyLoop, if_neg (by simp [hne]), ← hc, List.take_left, List.drop_left, leNat_marked hc,
      hreduce, ih _ hchunks (by simpa using hfuel), List.foldl_cons]

/-- Settles O18: the chunks are accumulated without reduction, and the tag's 16 bytes hold the sum mod 2^128. -/
theorem polyTagIsThePolynomial : Obligations.PolyTagIsThePolynomial := by
  intro k chunks hlen
  have hfuel : chunks.length ≤ chunks.flatten.length := by
    rw [List.length_flatten]
    have hone : ∀ n ∈ chunks.map List.length, 1 ≤ n := by simp +contextual [hlen]
    simpa using List.card_nsmul_le_sum _ 1 hone
  have hloop (r : Nat) : polyLoop chunks.flatten.length r 0 chunks.flatten = polySum r chunks % polyPrime :=
    polyLoop_flatten r 0 hlen hfuel
  rw [poly1305, toVec_toList (leBytes_length ..), leNat_leBytes, hloop]
  exact Nat.mod_mod _ _

end Sys2Proof.Machine
end

section
/-! The exceptions (60_exceptions.md): the order of the failures, what a failure does, that nothing but the host's own
accesses stops a step, and that a command looks at no slot but its own. -/
namespace Sys2Proof.Machine

/-! ### The first failure -/

/-- R223's first failure whose cause holds, if there is one. -/
def firstHolding (i : Instr) (s : State) : Option Code := priority.find? (failureHolds i s)

theorem expectedCode_of_some {i : Instr} {s : State} {c : Code} (h : firstHolding i s = some c) :
    expectedCode i s = c := by
  rw [expectedCode, ← firstHolding, h, Option.getD_some]

theorem expectedCode_of_none {i : Instr} {s : State} (h : firstHolding i s = none) : expectedCode i s = .ok := by
  rw [expectedCode, ← firstHolding, h, Option.getD_none]

/-- The first code of a list whose cause holds is what a check list in that order reports. -/
theorem find?_eq_firstFailure (f : Code → Bool) (l : List Code) :
    l.find? f = firstFailure (l.map fun c => (f c, c)) := by
  induction l with
  | nil => rfl
  | cons c l ih => cases h : f c <;> simp [firstFailure, h, ih]

/-- A failure whose cause holds is one R222's table lists for the command: the two tables compared, code by code. -/
theorem failureHolds_listed {i : Instr} {s : State} {c : Code} (h : failureHolds i s c = true) : c ∈ codesOf i := by
  cases c with
  | ok | illegalCommand => cases h
  | invalidSlot =>
    cases i with
    | derive => cases h
    | _ => exact List.mem_cons_self
  | _ => cases i <;> simp [failureHolds, regionsOf, codesOf] at h ⊢

theorem firstHolding_listed {i : Instr} {s : State} {c : Code} (h : firstHolding i s = some c) : c ∈ codesOf i :=
  failureHolds_listed (List.find?_some h)

section present
variable {i : Instr} {slot : BitVec 8} {s : State}

theorem firstHolding_of_absent (h : wellFormed s.sc.length s.ae.length i = false) :
    firstHolding i s = some .invalidSlot := by
  simp [firstHolding, priority, failureHolds, h]

/-- On a present slot R223's order goes on after InvalidSlot. -/
theorem firstHolding_of_present (h : wellFormed s.sc.length s.ae.length i = true) :
    firstHolding i s = firstFailure (priority.tail.map fun c => (failureHolds i s c, c)) := by
  rw [firstHolding, priority, find?_eq_firstFailure, List.map_cons, failureHolds, h]
  rfl

theorem ne_invalidSlot_of_present {c : Code} (h : wellFormed s.sc.length s.ae.length i = true)
    (hc : firstHolding i s = some c) : c ≠ .invalidSlot := by
  rintro rfl
  simpa [failureHolds, h] using List.find?_some hc

theorem firstHolding_derive : firstHolding .derive s = deriveCheck s := by
  rw [firstHolding_of_present rfl]
  simp [priority, failureHolds, regionsOf, deriveCheck, firstFailure, keySizeOk, regionOk, or_assoc]

section sc
variable {c : Cipher} (hc : s.sc[slot.toNat]? = some c)
include hc

theorem present_sc (hi : slotNamed i = .sc slot.toNat) : wellFormed s.sc.length s.ae.length i = true := by
  simpa [wellFormed_of_sc hi] using (List.getElem?_eq_some_iff.1 hc).1

theorem firstHolding_scInit : firstHolding (.scInit slot) s = scInitCheck s := by
  rw [firstHolding_of_present (present_sc hc rfl)]
  simp [priority, failureHolds, regionsOf, scInitCheck, firstFailure, keySizeOk, regionOk, ite_or]

theorem firstHolding_scXor : firstHolding (.scXor slot) s =
    firstFailure [(decide (c.cur = .uninit), .notInitialized), (!regionOk s (argNat s 0) (argNat s 1), .boundsError)] := by
  rw [firstHolding_of_present (present_sc hc rfl)]
  simp [priority, failureHolds, regionsOf, scUninit, firstFailure, regionOk, hc]

theorem firstHolding_scDestroy : firstHolding (.scDestroy slot) s = none := by
  rw [firstHolding_of_present (present_sc hc rfl)]
  simp [priority, failureHolds, regionsOf, firstFailure]

end sc

section ae
variable {x : AeSlot} (hx : s.ae[slot.toNat]? = some x)
include hx

theorem present_ae (hi : slotNamed i = .ae slot.toNat) : wellFormed s.sc.length s.ae.length i = true := by
  simpa [wellFormed_of_ae hi] using (List.getElem?_eq_some_iff.1 hx).1

theorem firstHolding_aeInit : firstHolding (.aeInit slot) s = aeInitCheck s := by
  rw [firstHolding_of_present (present_ae hx rfl)]
  simp [priority, failureHolds, regionsOf, aeInitCheck, firstFailure, keySizeOk, regionOk]

theorem firstHolding_aeAad : firstHolding (.aeAad slot) s = aeAadCheck x s := by
  rw [firstHolding_of_present (present_ae hx rfl)]
  simp [priority, failureHolds, regionsOf, aeSt, aeCounts, aeAadCheck, firstFailure, regionOk, hx]

theorem firstHolding_enter {mode : AeState} (hi : i = .aeEncrypt slot ∧ mode = .encrypt
    ∨ i = .aeDecrypt slot ∧ mode = .decrypt ∨ i = .aeAuth slot ∧ mode = .auth) :
    firstHolding i s = enterCheck mode x s := by
  rcases hi with ⟨rfl, rfl⟩ | ⟨rfl, rfl⟩ | ⟨rfl, rfl⟩
  all_goals
    rw [firstHolding_of_present (present_ae hx rfl)]
    simp [priority, failureHolds, regionsOf, aeSt, aeCounts, enterCheck, firstFailure, regionOk, hx]

theorem firstHolding_aeFinal : firstHolding (.aeFinal slot) s = aeFinalCheck x s := by
  rw [firstHolding_of_present (present_ae hx rfl)]
  simp [priority, failureHolds, regionsOf, aeSt, aeFinalCheck, firstFailure, regionOk, hx]

theorem firstHolding_aeVerify : firstHolding (.aeVerify slot) s = aeVerifyCheck x s := by
  rw [firstHolding_of_present (present_ae hx rfl)]
  simp [priority, failureHolds, regionsOf, aeSt, aeVerifyCheck, firstFailure, regionOk, hx]

theorem firstHolding_aeDestroy : firstHolding (.aeDestroy slot) s = none := by
  rw [firstHolding_of_present (present_ae hx rfl)]
  simp [priority, failureHolds, regionsOf, firstFailure]

end ae

end present

/-! ### What a command reports -/

/-- A next state by R223's order: OK where no cause holds, and otherwise the failure with the first code, which zeroizes
the slot named unless the block has no such slot (R224). -/
inductive Reports (i : Instr) (s : State) : State → Prop
  | ok {t : State} (clear : firstHolding i s = none) (code : t.code = 0) : Reports i s t
  | absent (first : firstHolding i s = some .invalidSlot) : Reports i s (fail .none .invalidSlot s)
  | failed (c : Code) (first : firstHolding i s = some c) (present : c ≠ .invalidSlot) :
      Reports i s (fail (slotNamed i) c s)

section
variable {i : Instr} {slot : BitVec 8} {s t : State}

/-- An effect that completes with OK leaves that code. -/
theorem code_eq_zero_of_completes {u : State} {r : Word} (h : (.next (complete .ok r u) : Result) = .next t) :
    t.code = 0 := by
  cases h
  rfl

/-- A guarded command on a present slot, whose checks are R223's and whose effect completes with OK. -/
theorem Reports.of_guarded {check : Option Code} {k : Result} (hwf : wellFormed s.sc.length s.ae.length i = true)
    (hfirst : firstHolding i s = check) (hok : k = .next t → t.code = 0)
    (h : guarded (slotNamed i) check s k = .next t) : Reports i s t := by
  subst hfirst
  rcases guarded_next h with ⟨c, hc, rfl⟩ | ⟨hnone, hk⟩
  · exact .failed c hc (ne_invalidSlot_of_present hwf hc)
  · exact .ok hnone (hok hk)

theorem Reports.of_withSc {check : Option Code} {k : Cipher → Result} (hi : slotNamed i = .sc slot.toNat)
    (hfirst : ∀ c, s.sc[slot.toNat]? = some c → firstHolding i s = check) (hok : ∀ c, k c = .next t → t.code = 0)
    (h : withSc slot s (fun c => guarded (.sc slot.toNat) check s (k c)) = .next t) : Reports i s t := by
  rcases withSc_next h with ⟨habsent, rfl⟩ | ⟨c, hc, hk⟩
  · exact .absent (firstHolding_of_absent (by simpa [wellFormed_of_sc hi] using habsent))
  · exact .of_guarded (present_sc hc hi) (hfirst c hc) (hok c) (hi ▸ hk)

theorem Reports.of_withAe {check : AeSlot → Option Code} {k : AeSlot → Result} (hi : slotNamed i = .ae slot.toNat)
    (hfirst : ∀ x, s.ae[slot.toNat]? = some x → firstHolding i s = check x) (hok : ∀ x, k x = .next t → t.code = 0)
    (h : withAe slot s (fun x => guarded (.ae slot.toNat) (check x) s (k x)) = .next t) : Reports i s t := by
  rcases withAe_next h with ⟨habsent, rfl⟩ | ⟨x, hx, hk⟩
  · exact .absent (firstHolding_of_absent (by simpa [wellFormed_of_ae hi] using habsent))
  · exact .of_guarded (present_ae hx hi) (hfirst x hx) (hok x) (hi ▸ hk)

/-- Every command reports by R223's order. -/
theorem exec_reports (h : exec i s = .next t) : Reports i s t := by
  cases i with
  | scInit slot => exact .of_withSc rfl (fun _ => firstHolding_scInit) (fun _ => code_eq_zero_of_completes) h
  | scXor slot =>
    rcases execScXor_next h with ⟨habsent, rfl⟩ | ⟨c, hc, hcur, rfl⟩ | ⟨c, j, hc, hcur, ⟨hr, rfl⟩ | ⟨hr, rfl⟩⟩
    · exact .absent (firstHolding_of_absent (by simpa [wellFormed] using habsent))
    · exact .failed _ (by simp [firstHolding_scXor hc, firstFailure, hcur]) nofun
    · exact .failed _ (by simp [firstHolding_scXor hc, firstFailure, hcur, hr]) nofun
    · exact .ok (by simp [firstHolding_scXor hc, firstFailure, hcur, hr]) rfl
  | scDestroy slot => exact .of_withSc rfl (fun _ => firstHolding_scDestroy) (fun _ => code_eq_zero_of_completes) h
  | derive => exact .of_guarded rfl firstHolding_derive code_eq_zero_of_completes h
  | aeInit slot => exact .of_withAe rfl (fun _ => firstHolding_aeInit) (fun _ => code_eq_zero_of_completes) h
  | aeAad slot => exact .of_withAe rfl (fun _ => firstHolding_aeAad) (fun _ => code_eq_zero_of_completes) h
  | aeEncrypt slot =>
    refine .of_withAe rfl (fun _ hx => firstHolding_enter hx (.inl ⟨rfl, rfl⟩)) (fun _ hk => ?_) h
    obtain ⟨_, -, hk⟩ := withCursor_next hk
    exact code_eq_zero_of_completes hk
  | aeDecrypt slot =>
    refine .of_withAe rfl (fun _ hx => firstHolding_enter hx (.inr (.inl ⟨rfl, rfl⟩))) (fun _ hk => ?_) h
    obtain ⟨_, -, hk⟩ := withCursor_next hk
    exact code_eq_zero_of_completes hk
  | aeAuth slot =>
    exact .of_withAe rfl (fun _ hx => firstHolding_enter hx (.inr (.inr ⟨rfl, rfl⟩)))
      (fun _ => code_eq_zero_of_completes) h
  | aeFinal slot => exact .of_withAe rfl (fun _ => firstHolding_aeFinal) (fun _ => code_eq_zero_of_completes) h
  | aeVerify slot => exact .of_withAe rfl (fun _ => firstHolding_aeVerify) (fun _ => code_eq_zero_of_completes) h
  | aeDestroy slot => exact .of_withAe rfl (fun _ => firstHolding_aeDestroy) (fun _ => code_eq_zero_of_completes) h

end

/-- The code a command leaves is the one R223 gives it. -/
theorem exec_code {i : Instr} {s t : State} (h : exec i s = .next t) : t.code = (expectedCode i s).byte := by
  cases exec_reports h with
  | ok clear code => rw [expectedCode_of_none clear, code, Code.byte]
  | absent first => rw [expectedCode_of_some first, fail_code]
  | failed c first => rw [expectedCode_of_some first, fail_code]

/-- Settles O34: the first failure is one the table lists. -/
theorem codesOfEachCommand : Obligations.CodesOfEachCommand := by
  intro i s t h
  cases exec_reports h with
  | ok clear code => exact .inl code
  | absent first => exact .inr ⟨_, firstHolding_listed first, fail_code ..⟩
  | failed c first => exact .inr ⟨c, firstHolding_listed first, fail_code ..⟩

/-- Settles O35: only a failure with another code than InvalidSlot writes a slot, the one named. -/
theorem failureZeroizesTheNamedSlot : Obligations.FailureZeroizesTheNamedSlot := by
  intro i s t h hcode
  cases exec_reports h with
  | ok clear code => exact absurd code hcode
  | absent first => cases hn : slotNamed i <;> rfl
  | failed c first hpresent =>
    have hbyte : (fail (slotNamed i) c s).code ≠ 0x11 := by
      rw [fail_code]
      exact fun h => hpresent (Code.byte_injective h)
    simp only [if_neg hbyte]
    cases hn : slotNamed i <;> rfl

/-- An entry of a list with one entry written is as before or the value written. -/
theorem getElem?_set_eq_or {α : Type} (l : List α) (i k : Nat) (v : α) :
    (l.set i v)[k]? = l[k]? ∨ (l.set i v)[k]? = some v := by
  rw [List.getElem?_set]
  split_ifs with hik hlt
  · exact .inr rfl
  · exact .inl (List.getElem?_eq_none (by omega)).symm
  · exact .inl rfl

theorem zeroize_sc_getElem? (n : SlotName) (s : State) (k : Nat) :
    (zeroize n s).sc[k]? = s.sc[k]? ∨ (zeroize n s).sc[k]? = some Cipher.zero := by
  cases n with
  | none | ae => exact .inl rfl
  | sc i => exact getElem?_set_eq_or ..

theorem zeroize_ae_getElem? (n : SlotName) (s : State) (k : Nat) :
    (zeroize n s).ae[k]? = s.ae[k]? ∨ (zeroize n s).ae[k]? = some AeSlot.zero := by
  cases n with
  | none | sc => exact .inl rfl
  | ae i => exact getElem?_set_eq_or ..

/-- A failure writes no DMEM byte and no argument register, and leaves every slot as it was or zeroized. -/
theorem fail_no_partial_effect (n : SlotName) (c : Code) (s : State) :
    (fail n c s).mem = s.mem ∧ (fail n c s).args = s.args
      ∧ (∀ k : Nat, (fail n c s).sc[k]? = s.sc[k]? ∨ (fail n c s).sc[k]? = some Cipher.zero)
      ∧ ∀ k : Nat, (fail n c s).ae[k]? = s.ae[k]? ∨ (fail n c s).ae[k]? = some AeSlot.zero :=
  ⟨fail_mem .., fail_args .., zeroize_sc_getElem? n s, zeroize_ae_getElem? n s⟩

/-- A command that fails has no partial effect (R223). -/
theorem exec_no_partial_effect {i : Instr} {s t : State} (h : exec i s = .next t) (hcode : t.code ≠ 0) :
    t.mem = s.mem ∧ t.args = s.args ∧ (∀ k : Nat, t.sc[k]? = s.sc[k]? ∨ t.sc[k]? = some Cipher.zero)
      ∧ ∀ k : Nat, t.ae[k]? = s.ae[k]? ∨ t.ae[k]? = some AeSlot.zero := by
  cases exec_reports h with
  | ok clear code => exact absurd code hcode
  | absent => exact fail_no_partial_effect ..
  | failed => exact fail_no_partial_effect ..

/-- Settles O33: a word that is no command fails on no slot, and a command reports by R223's order. -/
theorem firstFailureIsReported : Obligations.FirstFailureIsReported := by
  intro w s t h
  cases hd : decode s.sc.length s.ae.length w with
  | illegal =>
    cases (issue_of_illegal hd).symm.trans h
    exact ⟨fun _ => rfl, nofun, nofun, fun _ => fail_no_partial_effect .none .illegalCommand s⟩
  | badSlot =>
    cases (issue_of_badSlot hd).symm.trans h
    exact ⟨nofun, fun _ => rfl, nofun, fun _ => fail_no_partial_effect .none .invalidSlot s⟩
  | cmd i =>
    rw [issue_of_decode hd] at h
    refine ⟨nofun, nofun, fun j hj => ?_, exec_no_partial_effect h⟩
    cases hj
    exact exec_code h

/-! ### Every command completes -/

/-- A result that is a next state. -/
def Completes (r : Result) : Prop := ∃ t, r = .next t

theorem Completes.of_guarded {n : SlotName} {check : Option Code} {s : State} {k : Result}
    (h : check = none → Completes k) : Completes (guarded n check s k) := by
  cases check with
  | none => exact h rfl
  | some c => exact ⟨_, rfl⟩

theorem Completes.of_withSc {slot : BitVec 8} {s : State} {k : Cipher → Result} (h : ∀ c, Completes (k c)) :
    Completes (withSc slot s k) := by
  unfold withSc
  split
  · exact ⟨_, rfl⟩
  · exact h _

theorem Completes.of_withAe {slot : BitVec 8} {s : State} {k : AeSlot → Result} (h : ∀ x ∈ s.ae, Completes (k x)) :
    Completes (withAe slot s k) := by
  unfold withAe
  split
  · exact ⟨_, rfl⟩
  next hx => exact h _ (List.mem_of_getElem? hx)

/-- A context that meets R35 and passes ENTER's checks has an initialized cipher. -/
theorem Completes.of_withCursor {mode : AeState} {x : AeSlot} {s : State} {k : Fin 64 → Result} (hx : AeInv x)
    (hcheck : enterCheck mode x s = none) (h : ∀ i, Completes (k i)) : Completes (withCursor x k) := by
  obtain ⟨hlive, -⟩ := enterCheck_eq_none.1 hcheck
  unfold withCursor
  split
  next hcur => exact absurd hcur (hx.cipher (ne_uninitialized_of_live hlive))
  next => exact h _

/-- Where every context meets R35 every command completes: only a missing cursor could stop one (R220). -/
theorem exec_completes (i : Instr) {s : State} (hs : ∀ x ∈ s.ae, AeInv x) : Completes (exec i s) := by
  cases i with
  | scInit slot => exact .of_withSc fun _ => .of_guarded fun _ => ⟨_, rfl⟩
  | scXor slot =>
    refine .of_withSc fun c => ?_
    cases c.cur with
    | uninit => exact ⟨_, rfl⟩
    | idx j => exact .of_guarded fun _ => ⟨_, rfl⟩
  | scDestroy slot => exact .of_withSc fun _ => ⟨_, rfl⟩
  | derive => exact .of_guarded fun _ => ⟨_, rfl⟩
  | aeEncrypt slot | aeDecrypt slot =>
    exact .of_withAe fun x hx => .of_guarded fun hcheck => .of_withCursor (hs x hx) hcheck fun _ => ⟨_, rfl⟩
  | aeInit slot | aeAad slot | aeAuth slot | aeFinal slot | aeVerify slot =>
    exact .of_withAe fun _ _ => .of_guarded fun _ => ⟨_, rfl⟩
  | aeDestroy slot => exact .of_withAe fun _ _ => ⟨_, rfl⟩

theorem issue_completes (w : Word) {s : State} (hs : ∀ x ∈ s.ae, AeInv x) : Completes (issue w s) := by
  cases hd : decode s.sc.length s.ae.length w with
  | illegal => exact ⟨_, issue_of_illegal hd⟩
  | badSlot => exact ⟨_, issue_of_badSlot hd⟩
  | cmd i =>
    rw [issue_of_decode hd]
    exact exec_completes i hs

/-- Settles O36: the word completes, in a state that meets the invariant. -/
theorem everyCommandWordCompletes : Obligations.EveryCommandWordCompletes := by
  intro w s hs
  obtain ⟨t, ht⟩ := issue_completes w hs.contexts
  obtain ⟨hcode, hidle, hres, -⟩ := State.inv_iff.1 (issue_inv hs.data ht)
  exact ⟨t, ht, hidle, hcode, hres⟩

/-! ### What stops a step -/

/-- What a host action answers under the invariant: a next state, or a fault other than the missing cursor's. -/
inductive HostAnswer : Result → Prop
  | next (t : State) : HostAnswer (.next t)
  | fault (f : Fault) (host : f ≠ .liveSlotWithoutCipher) : HostAnswer (.fault f)

theorem HostAnswer.ite {p : Prop} [Decidable p] {a b : Result} (ha : HostAnswer a) (hb : HostAnswer b) :
    HostAnswer (if p then a else b) := by
  split
  · exact ha
  · exact hb

theorem HostAnswer.of_completes {r : Result} (h : Completes r) : HostAnswer r := by
  obtain ⟨t, rfl⟩ := h
  exact .next t

/-- Under the invariant no host action is refused, and none meets a Live slot without a cipher. -/
theorem hostAct_answer (act : HostAction) {s : State} (hs : s.Inv) : HostAnswer (hostAct act s) := by
  cases act with
  | regRead off width => exact .ite (.next _) (.fault _ nofun)
  | regWrite off width v =>
    refine .ite ?_ (.fault _ nofun)
    cases hostRegAt off with
    | cmd => exact .of_completes (issue_completes v hs.contexts)
    | arg | status | res | reserved => exact .next _
  | dmemRead a => exact .ite (.next _) (.fault _ nofun)
  | dmemWrite a v => exact .ite (.next _) (.fault _ nofun)
  | chk => exact .ite (.next _) (.next _)
  | pollBusy => exact .ite (.next _) (.fault _ nofun)
  | reset | cmdThenReset => exact .next _
  | dmemCopy src dst => exact .ite (.next _) (.fault _ nofun)
  | wipeUnlessMatch a n => exact .ite (.next _) (.ite (.next _) (.fault _ nofun))

theorem step_answer {s : State} (hs : s.Inv) : HostAnswer (step s) := by
  cases hhost : s.host with
  | nil =>
    rw [step, hostTurn, hhost]
    exact .next s
  | cons act acts =>
    rw [step_cons hhost]
    exact hostAct_answer act (s := { s with host := acts }) (hs.congr rfl rfl rfl hs.data)

/-- Settles O59: the fault no host action answers is the only one besides the host's. -/
theorem onlyTheHostCanGetStuck : Obligations.OnlyTheHostCanGetStuck := by
  intro s hs
  refine ⟨fun f hf => ?_, fun r hr => ?_⟩
  · have hanswer := hf ▸ step_answer hs
    cases hanswer with
    | fault _ hhost => cases f <;> simp at hhost ⊢
  · have hanswer := hr ▸ step_answer hs
    cases hanswer

/-! ### Slots share nothing -/

/-- Two states that a command on slot n cannot tell apart: they agree on A0 to A5, DMEM, the parameters and that slot. -/
structure SameView (n : SlotName) (s u : State) : Prop where
  args : u.args = s.args
  mem  : u.mem = s.mem
  par  : u.par = s.par
  sc   : ∀ k, n = .sc k → u.sc[k]? = s.sc[k]?
  ae   : ∀ k, n = .ae k → u.ae[k]? = s.ae[k]?

section
variable {n : SlotName} {s u : State} (h : SameView n s u)
include h

/-- What reads only the operands, DMEM and the parameters reads the same in both states, by `rfl` after this rewrite. -/
theorem SameView.eq_with : u = { u with args := s.args, mem := s.mem, par := s.par } := by
  rw [← h.args, ← h.mem, ← h.par]

theorem SameView.memWrite {a b : Nat} {bs cs : List Byte} (ha : b = a) (hbs : cs = bs) :
    SameView n (memWrite a bs s) (memWrite b cs u) := by
  subst ha hbs
  exact { h with mem := congrArg (Memory.writeBytes · b cs) h.mem }

theorem SameView.setSc (i : Nat) {c d : Cipher} (hc : d = c) : SameView n (setSc i c s) (setSc i d u) := by
  subst hc
  exact { h with sc := fun k hk => by simp only [setSc_sc, List.getElem?_set', h.sc k hk] }

theorem SameView.setAe (i : Nat) {x y : AeSlot} (hx : y = x) : SameView n (setAe i x s) (setAe i y u) := by
  subst hx
  exact { h with ae := fun k hk => by simp only [setAe_ae, List.getElem?_set', h.ae k hk] }

theorem SameView.zeroize (m : SlotName) : SameView n (zeroize m s) (zeroize m u) := by
  cases m with
  | none => exact h
  | sc i => exact h.setSc i rfl
  | ae i => exact h.setAe i rfl

end

/-- Where the first of two results is a next state, so is the second, with the same code, RES and view of slot n. -/
def SameAnswer (n : SlotName) (r q : Result) : Prop :=
  ∀ t, r = .next t → ∃ v, q = .next v ∧ v.code = t.code ∧ v.res = t.res ∧ SameView n t v

theorem SameAnswer.complete {n : SlotName} {s u : State} (h : SameView n s u) (c : Code) {r r' : Word} (hr : r' = r) :
    SameAnswer n (.next (complete c r s)) (.next (complete c r' u)) := by
  rintro t ⟨⟩
  exact ⟨_, rfl, rfl, hr, { h with }⟩

section
variable {n : SlotName} {s u : State} (h : SameView n s u)
include h

theorem SameAnswer.fail (m : SlotName) (c : Code) : SameAnswer n (.next (fail m c s)) (.next (fail m c u)) :=
  .complete (h.zeroize m) c rfl

theorem SameAnswer.guarded (m : SlotName) {check check' : Option Code} {k q : Result} (hcheck : check' = check)
    (hk : SameAnswer n k q) : SameAnswer n (guarded m check s k) (guarded m check' u q) := by
  subst hcheck
  cases check' with
  | none => exact hk
  | some c => exact .fail h m c

theorem SameAnswer.withSc {slot : BitVec 8} (hn : n = .sc slot.toNat) {k q : Cipher → Result}
    (hk : ∀ c, SameAnswer n (k c) (q c)) : SameAnswer n (withSc slot s k) (withSc slot u q) := by
  unfold Machine.withSc
  rw [h.sc _ hn]
  split
  · exact .fail h _ _
  · exact hk _

theorem SameAnswer.withAe {slot : BitVec 8} (hn : n = .ae slot.toNat) {k q : AeSlot → Result}
    (hk : ∀ x, SameAnswer n (k x) (q x)) : SameAnswer n (withAe slot s k) (withAe slot u q) := by
  unfold Machine.withAe
  rw [h.ae _ hn]
  split
  · exact .fail h _ _
  · exact hk _

end

theorem SameAnswer.withCursor {n : SlotName} (x : AeSlot) {k q : Fin 64 → Result} (hk : ∀ i, SameAnswer n (k i) (q i)) :
    SameAnswer n (withCursor x k) (withCursor x q) := by
  unfold Machine.withCursor
  split
  · exact nofun
  · exact hk _

/-- A command answers the same in two states it cannot tell apart (R232, R39). -/
theorem exec_sameAnswer (i : Instr) {s u : State} (h : SameView (slotNamed i) s u) :
    SameAnswer (slotNamed i) (exec i s) (exec i u) := by
  cases i with
  | scInit slot =>
    refine .withSc h rfl fun _ => .guarded h _ ?_ (.complete (h.setSc _ ?_) _ rfl)
    all_goals
      rewrite [h.eq_with]
      rfl
  | scXor slot =>
    refine .withSc h rfl fun c => ?_
    cases c.cur with
    | uninit => exact .fail h _ _
    | idx j =>
      refine .guarded h _ ?_ (.complete ((h.setSc _ ?_).memWrite ?_ ?_) _ rfl)
      all_goals
        rewrite [h.eq_with]
        rfl
  | scDestroy slot => exact .withSc h rfl fun _ => .complete (h.zeroize _) _ rfl
  | derive =>
    refine .guarded h _ ?_ (.complete (h.memWrite ?_ ?_) _ rfl)
    all_goals
      rewrite [h.eq_with]
      rfl
  | aeInit slot | aeAad slot | aeAuth slot =>
    refine .withAe h rfl fun _ => .guarded h _ ?_ (.complete (h.setAe _ ?_) _ rfl)
    all_goals
      rewrite [h.eq_with]
      rfl
  | aeEncrypt slot | aeDecrypt slot =>
    refine .withAe h rfl fun x => .guarded h _ ?_ (.withCursor x fun _ =>
      .complete ((h.setAe _ ?_).memWrite ?_ ?_) _ rfl)
    all_goals
      rewrite [h.eq_with]
      rfl
  | aeFinal slot =>
    refine .withAe h rfl fun _ => .guarded h _ ?_ (.complete ((h.zeroize _).memWrite ?_ ?_) _ rfl)
    all_goals
      rewrite [h.eq_with]
      rfl
  | aeVerify slot =>
    refine .withAe h rfl fun _ => .guarded h _ ?_ (.complete (h.zeroize _) _ ?_)
    all_goals
      rewrite [h.eq_with]
      rfl
  | aeDestroy slot => exact .withAe h rfl fun _ => .complete (h.zeroize _) _ rfl

/-- Settles O42: the two states give the command the same view. -/
theorem slotsShareNothing : Obligations.SlotsShareNothing := by
  intro i s u t hargs hmem hpar _ _ hsc hae ht
  have hview : SameView (slotNamed i) s u :=
    ⟨hargs.symm, hmem.symm, hpar.symm, fun k hk => (hsc k hk).symm, fun k hk => (hae k hk).symm⟩
  obtain ⟨v, hv, hcode, hres, hafter⟩ := exec_sameAnswer i hview t ht
  exact ⟨v, hv, hcode, hres, hafter.mem, hafter.sc, hafter.ae⟩

end Sys2Proof.Machine
end

section
/-! Reset (70_reset_and_hazards.md): what it clears between commands and during one, what the zeroized slots then
answer, and the idle block. -/
namespace Sys2Proof.Machine

/-! ### The block reset -/

section blockReset
variable (s : State)

theorem blockReset_args_zero (k : Fin 6) : (blockReset s).args[k] = 0 := by simp

theorem blockReset_sc_length : (blockReset s).sc.length = s.sc.length := List.length_map _

theorem blockReset_ae_length : (blockReset s).ae.length = s.ae.length := List.length_map _

theorem blockReset_sc_zero {c : Cipher} (hc : c ∈ (blockReset s).sc) : c = Cipher.zero := by
  obtain ⟨-, -, rfl⟩ := List.mem_map.1 hc
  rfl

theorem blockReset_ae_zero {x : AeSlot} (hx : x ∈ (blockReset s).ae) : x = AeSlot.zero := by
  obtain ⟨-, -, rfl⟩ := List.mem_map.1 hx
  rfl

end blockReset

/-- Settles O50: the step is the block reset. -/
theorem blockResetKeepsDmem : Obligations.BlockResetKeepsDmem := by
  intro s acts hhost
  exact ⟨_, step_cons hhost, rfl, rfl, blockReset_args_zero _, rfl, rfl, rfl, blockReset_sc_length _,
    fun _ => blockReset_sc_zero _, blockReset_ae_length _, fun _ => blockReset_ae_zero _⟩

/-! ### A command abandoned by reset -/

/-- An abandoned command resets the block and counts its draw. DMEM is as before, or the word names a command that would
have succeeded and the bytes outside that command's output region are as before (R250). -/
theorem abandon_eq (w : Word) (s : State) :
    ∃ m, abandon w s = blockReset { s with mem := m, draws := s.draws + 1 }
      ∧ (m = s.mem ∨ ∃ i t, decode s.sc.length s.ae.length w = .cmd i ∧ exec i s = .next t ∧ t.code = 0
          ∧ ∀ b, b < (outputRegion i s).1 ∨ (outputRegion i s).1 + (outputRegion i s).2 ≤ b →
              Memory.read m b = Memory.read s.mem b) := by
  unfold abandon
  split
  next => exact ⟨s.mem, rfl, .inl rfl⟩
  next => exact ⟨s.mem, rfl, .inl rfl⟩
  next i hdecode =>
    split
    next t hexec =>
      split
      next hok =>
        obtain ⟨m, hdrawn, hframe⟩ := drawBytes_frame (outputRegion i s).1 (outputRegion i s).2 s
        exact ⟨m, by rw [hdrawn], .inr ⟨i, t, hdecode, hexec, hok, hframe⟩⟩
      next => exact ⟨s.mem, rfl, .inl rfl⟩
    next => exact ⟨s.mem, rfl, .inl rfl⟩
    next => exact ⟨s.mem, rfl, .inl rfl⟩

/-- Settles O51: a changed DMEM is that of a command that would have succeeded, so of none that fails. -/
theorem abandonedCommandTouchesOnlyItsOutput : Obligations.AbandonedCommandTouchesOnlyItsOutput := by
  intro w s acts hhost
  obtain ⟨m, habandon, hmem⟩ := abandon_eq w { s with host := acts }
  refine ⟨_, (step_cons hhost).trans (congrArg Host.Outcome.next habandon), rfl, rfl, blockReset_args_zero _, rfl,
    rfl, rfl, blockReset_sc_length _, fun _ => blockReset_sc_zero _, blockReset_ae_length _,
    fun _ => blockReset_ae_zero _, ?_⟩
  rcases hmem with rfl | ⟨j, t, hdecode, hexec, hok, hframe⟩
  · exact ⟨fun _ _ _ _ => rfl, fun _ => rfl, fun _ _ _ => rfl⟩
  · refine ⟨fun i hi => ?_, fun hnone => absurd hdecode (hnone j), fun i hi hfails => ?_⟩
    · cases hi.symm.trans hdecode
      exact hframe
    · cases hi.symm.trans hdecode
      obtain ⟨u, hu, hcode⟩ := hfails
      cases hu.symm.trans hexec
      exact absurd hok hcode

/-! ### Zeroized slots -/

/-- On a present AEAD slot a check that fails gives its code. -/
theorem withAe_guarded_fails {slot : BitVec 8} {s : State} {x : AeSlot} {check : AeSlot → Option Code} {c : Code}
    (hx : s.ae[slot.toNat]? = some x) (hcheck : check x = some c) (k : AeSlot → Result) :
    ∃ t, withAe slot s (fun x => guarded (.ae slot.toNat) (check x) s (k x)) = .next t ∧ t.code = c.byte :=
  ⟨fail (.ae slot.toNat) c s, by rw [withAe_some hx, hcheck, guarded_some], fail_code ..⟩

/-- AE_VERIFY looks at the tag length before the state (R193). -/
theorem aeVerifyCheck_of_tagSize {x : AeSlot} {s : State} (h : argNat s 1 ≠ 16) :
    aeVerifyCheck x s = some .invalidTagSize := by
  simp [aeVerifyCheck, firstFailure, h]

theorem aeVerifyCheck_of_not_live {x : AeSlot} {s : State} (h : argNat s 1 = 16) (hlive : live x.st = false) :
    aeVerifyCheck x s = some .notInitialized := by
  simp [aeVerifyCheck, firstFailure, h, hlive]

/-- Settles O52: a zeroized cipher has no cursor, and a zeroized AEAD slot is not Live, the first check of every AEAD
command but AE_VERIFY. -/
theorem freshSlotsAreNotInitialized : Obligations.FreshSlotsAreNotInitialized := by
  refine fun s slot i => ⟨fun hc => ?_, fun hx hi => ?_, fun hx hsize => ?_⟩
  · exact ⟨fail (.sc slot.toNat) .notInitialized s, withSc_some hc _, fail_code ..⟩
  · rcases hi with rfl | rfl | rfl | rfl | rfl | ⟨rfl, hsize⟩
    · exact withAe_guarded_fails (check := (aeAadCheck · s)) hx rfl _
    · exact withAe_guarded_fails (check := (enterCheck .encrypt · s)) hx rfl _
    · exact withAe_guarded_fails (check := (enterCheck .decrypt · s)) hx rfl _
    · exact withAe_guarded_fails (check := (enterCheck .auth · s)) hx rfl _
    · exact withAe_guarded_fails (check := (aeFinalCheck · s)) hx rfl _
    · exact withAe_guarded_fails (check := (aeVerifyCheck · s)) hx (aeVerifyCheck_of_not_live hsize rfl) _
  · exact withAe_guarded_fails (check := (aeVerifyCheck · s)) hx (aeVerifyCheck_of_tagSize hsize) _

/-! ### The idle block -/

/-- Settles O56: the host's turn with no action left. -/
theorem idleStepChangesNothing : Obligations.IdleStepChangesNothing := by
  intro s hidle
  rw [step, hostTurn, hidle]

end Sys2Proof.Machine
end
